-- ==== Sys2Proof/Word.lean ====
section
/-! DEFINITION. The value types of the block (00_scope.md R8, R11, R12): bit vectors where the spec has bits, `Fin`
where it has a number in a closed range. All values are unsigned; bit 0 is the least significant bit. -/

namespace Sys2Proof

/-- A digit, the value of the counter: `CNT_MIN` = 0 to `CNT_MAX` = 9 (R8). R19 allows this type for `CNT`; a
value above 9, which the spec puts outside the state space, cannot be written down. -/
abbrev Digit := Fin 10

/-- The stream index `K`, 0..24 (10_state.md R22). -/
abbrev WordIndex := Fin 25

/-- A time in microseconds since boot on the 64-bit port `now[63:0]` (decision D2), of which the block takes the low
`TS_WIDTH` bits. -/
abbrev Timestamp := BitVec 64

/-- `TS_WIDTH`, a parameter (R8; 93_implementation_defined.md U4): at most the 64 bits of the port. Log 9. -/
abbrev TsWidth := Fin 65

/-- One glyph: bit `p` is the intensity of grid position `p` (20_memory.md R42). -/
abbrev Glyph := BitVec 25

/-- A color word of `WORD_WIDTH` = 32 bits (20_memory.md R40). -/
abbrev ColorWord := BitVec 32

/-- One channel of a color word. -/
abbrev Channel := BitVec 8

/-- The 5-bit step code `S` (30_encoding.md R55). -/
abbrev StepCode := BitVec 5

/-- The 2-bit line code `ev_line` (30_encoding.md R56). -/
abbrev LineCode := BitVec 2

/-- A ROM address: the 4-bit value of a digit, 10..15 selecting nothing (20_memory.md R37). -/
abbrev RomAddress := BitVec 4

/-- Grid position of row `r`, column `c` of the row-major 5x5 grid (41_glyph_rom.md R81). -/
def gridPosition (r c : Fin 5) : Nat := 5 * r.val + c.val

end Sys2Proof
end

