-- ==== Sys2Proof/Syntax.lean ====
section
/-! DEFINITION. The steps of the block, which play the role of instructions (30_encoding.md R54), and the lines of
the event-program notation (R62). -/

namespace Sys2Proof

/-- The six steps of R54, one constructor per row of the opcode table. An event step carries the operand `now`
(R55), of which the block takes `TS_WIDTH` bits; `RESET` and `PX_XFER` carry none. -/
inductive Instr
  /-- `RESET`, step code `1xxxx`. -/
  | reset
  /-- `EV_UP`, edge event on ButtonUp. -/
  | evUp (now : Timestamp)
  /-- `EV_DOWN`, edge event on ButtonDown. -/
  | evDown (now : Timestamp)
  /-- `EV_NOP00`, edge event with line code `00`. -/
  | evNop00 (now : Timestamp)
  /-- `EV_NOP11`, edge event with line code `11`. -/
  | evNop11 (now : Timestamp)
  /-- `PX_XFER`, transfer of the presented color word. -/
  | pxXfer
deriving DecidableEq, Repr

/-- One line of an event program (R62). A time is a decimal count of microseconds, so a natural number here;
WellFormed.lean checks that it fits `TS_WIDTH`. -/
inductive Line
  /-- `RESET`. -/
  | reset
  /-- `UP @ t`. -/
  | up (t : Nat)
  /-- `DOWN @ t`. -/
  | down (t : Nat)
  /-- `NOP0 @ t`. -/
  | nop0 (t : Nat)
  /-- `NOP3 @ t`. -/
  | nop3 (t : Nat)
  /-- `PX`. -/
  | px
  /-- `DRAIN` (pseudo-step). -/
  | drain
  /-- `PRESS UP @ t` (pseudo-step). -/
  | pressUp (t : Nat)
  /-- `PRESS DOWN @ t` (pseudo-step). -/
  | pressDown (t : Nat)
deriving DecidableEq, Repr

end Sys2Proof
end

