-- ==== Sys2Proof/WellFormed.lean ====
section
/-! DEFINITION. What can be ill-formed. An `Instr` cannot: its one operand `now` is any value of the port,
which its type says (30_encoding.md R57). A raw step code can (R59), and so can a line of an event program (R62),
whose time is a count of microseconds that must fit the operand. -/

namespace Sys2Proof

/-- The step code stands for a step: it is neither `000xx` (no step) nor `011xx` (cannot occur) (R58, R59). -/
def StepCode.isStep (c : StepCode) : Bool :=
  c.getLsbD 4 || (c.getLsbD 3 != c.getLsbD 2)

/-- The times of a line fit the port `now` (R57). -/
def Line.wellFormed : Line → Bool
  | .up t | .down t | .nop0 t | .nop3 t | .pressUp t | .pressDown t => decide (t < 2 ^ 64)
  | .reset | .px | .drain => true

end Sys2Proof
end

