-- ==== Sys2Proof/Decode.lean ====
section
/-! DEFINITION. The decoder of step codes (30_encoding.md R58, R59), total on all 32 codes, and the encoder. -/

namespace Sys2Proof

/-- An encoded step: the step code `S` and the data operand `now`, which only an event step uses (R55). -/
structure StepWord where
  code : StepCode
  now : Timestamp
deriving DecidableEq, Repr

/-- What a step code stands for. -/
inductive Decoded
  /-- One of the six steps. -/
  | step (i : Instr)
  /-- `000xx`: no step, the block waits (R59). -/
  | wait
  /-- `011xx`: cannot arise from the ports; refused (R59). -/
  | unreachable
deriving DecidableEq, Repr

/-- The decode table of R58, rows checked top to bottom; the last row left is `000xx`. -/
def decode (S : StepCode) (now : Timestamp) : Decoded :=
  if S &&& 0b10000#5 = 0b10000#5 then .step .reset
  else if S = 0b01001#5 then .step (.evUp now)
  else if S = 0b01010#5 then .step (.evDown now)
  else if S = 0b01000#5 then .step (.evNop00 now)
  else if S = 0b01011#5 then .step (.evNop11 now)
  else if S &&& 0b11100#5 = 0b00100#5 then .step .pxXfer
  else if S &&& 0b11100#5 = 0b01100#5 then .unreachable
  else .wait

/-- The decoder on an encoded step. -/
def decodeWord (w : StepWord) : Decoded := decode w.code w.now

/-- Mask and match of an instruction's row of the opcode table (R58): a code belongs to the row when it agrees with
the match under the mask. -/
def Instr.row : Instr → StepCode × StepCode
  | .reset => (0b10000#5, 0b10000#5)
  | .evUp _ => (0b11111#5, 0b01001#5)
  | .evDown _ => (0b11111#5, 0b01010#5)
  | .evNop00 _ => (0b11111#5, 0b01000#5)
  | .evNop11 _ => (0b11111#5, 0b01011#5)
  | .pxXfer => (0b11100#5, 0b00100#5)

/-- The operand `now` of a step; a step without one has 0 in its place. -/
def Instr.nowOperand : Instr → Timestamp
  | .evUp now | .evDown now | .evNop00 now | .evNop11 now => now
  | .reset | .pxXfer => 0#64

/-- The encoding of a step with the given values in the bits its row ignores (`1xxxx`, `001xx`). -/
def encodeWith (ignored : StepCode) (i : Instr) : StepWord :=
  { code := i.row.2 ||| (ignored &&& ~~~i.row.1), now := i.nowOperand }

/-- The encoding of a step, the ignored bits zero. -/
def encode (i : Instr) : StepWord := encodeWith 0#5 i

/-- The step that `w` stands for, its bits numbered as spec/opcode_table.json numbers them, the operand `now` zero.
A number with a bit above bit 4 is no step code (R55: one length, 5 bits). Log 15. -/
def decodeTableWord (nbits w : Nat) : Option Instr :=
  let v := w % 2 ^ nbits
  if v < 32 then
    match decode (BitVec.ofNat 5 v) 0#64 with
    | .step i => some i
    | .wait => none
    | .unreachable => none
  else none

end Sys2Proof
end

