-- ==== Sys2Proof/Config.lean ====
section
/-! DEFINITION. What the built block fixes and the spec does not give. The constants whose value the spec does give
(`WINDOW_US`, `RED_ON`, ...) stand in Machine/Parameters.lean. -/

namespace Sys2Proof

/-- `GLYPH` (41_glyph_rom.md R80, decision D13): the glyph of each digit. OPEN in the spec, which says that no value
may be guessed, so it has no body here: nothing can be proved about any of its bits (R85). Log 2. -/
opaque Config.glyph : Digit → Glyph

/-- The contents of `GLYPH_ROM`: entry `d` is the glyph of digit `d` (20_memory.md R38). -/
def Config.glyphTable : Vector Glyph 10 :=
  #v[Config.glyph 0, Config.glyph 1, Config.glyph 2, Config.glyph 3, Config.glyph 4,
     Config.glyph 5, Config.glyph 6, Config.glyph 7, Config.glyph 8, Config.glyph 9]

end Sys2Proof
end

