-- ==== Sys2Proof/Machine/Parameters.lean ====
section
/-! DEFINITION. The parameters of 00_scope.md R8 that the spec gives a value: hardwired constants of the block
(R9, 10_state.md R28), each under its name so that another value can be put in its place. -/

namespace Sys2Proof.Machine

/-- The value of `TS_WIDTH` (R8, decision D6). It is a parameter that a model sets to the width of a narrower time
source (30_encoding.md R57), so the machine reads it from State. UNVERIFIED, unsafe: log 9. -/
def defaultTsWidth : TsWidth := 64

/-- `WINDOW_US` = 75000: the debounce window of 75 ms (R8). -/
def windowUs : Timestamp := 75000#64

/-- The two readings of the comparison `WINDOW_CMP` (R8; 93_implementation_defined.md U19). -/
inductive WindowCmp
  /-- `elapsed >= WINDOW_US`. -/
  | ge
  /-- `elapsed > WINDOW_US`. -/
  | gt
deriving DecidableEq, Repr

/-- `WINDOW_CMP` is `>=` (R8, 40_debounce.md R64). UNVERIFIED, unsafe: log 10. -/
def windowCmp : WindowCmp := .ge

/-- `RENDER_ON_SATURATE` is false (R8, 40_debounce.md R71). UNVERIFIED, unsafe: log 11. -/
def renderOnSaturate : Bool := false

/-- `RED_ON` = 0x19: 0.1 x 255 truncated (42_pixel_mapper.md R86). UNVERIFIED, unsafe: log 7. -/
def redOn : Channel := 0x19#8

/-- `LAST_TS_RESET` = 0 (R8, decision D9). UNVERIFIED, unsafe: log 8. -/
def lastTsReset : Timestamp := 0#64

end Sys2Proof.Machine
end

