-- ==== Sys2Proof/Machine/State.lean ====
section
/-! DEFINITION. The state of the machine as plain data: the six elements of 10_state.md R18, and the environment's
and the peripheral's side of the ports. -/

namespace Sys2Proof.Machine

/-- `PHASE`, the renderer's control state (10_state.md R21). -/
inductive Phase
  /-- `IDLE` (0): no render is in progress. -/
  | idle
  /-- `STREAM` (1): a render is in progress. -/
  | stream
deriving DecidableEq, Repr

/-- What the environment and the peripheral drive on the input ports at one step opportunity (10_state.md R29). -/
structure Ports where
  rst : Bool
  evValid : Bool
  evLine : LineCode
  now : Timestamp
  pxReady : Bool
deriving DecidableEq, Repr

/-- Ports on which nothing is asked of the block. -/
def Ports.quiet : Ports :=
  { rst := false, evValid := false, evLine := 0#2, now := 0#64, pxReady := false }

/-- The state. The first six fields are the spec's (10_state.md R18), `tsWidth` is a parameter of the block (log 9),
and the last three are the model's own: the environment's schedule (log 3) and the two output channels of 00_scope.md
R14 (log 4). -/
structure State where
  /-- `CNT`, the counter (R19). -/
  cnt : Digit
  /-- `LAST_TS`, the time of the last accepted event on either line, in the low `TS_WIDTH` bits (R20). -/
  lastTs : Timestamp
  /-- `PHASE` (R21). -/
  phase : Phase
  /-- `K`: in `STREAM`, the number of words of the render already transferred (R22). -/
  k : WordIndex
  /-- `PIX`, the glyph latch (R23). -/
  pix : Glyph
  /-- `GLYPH_ROM`, a constant that no step writes (R24); a field, so that statements hold for every `GLYPH`. -/
  glyphRom : Vector Glyph 10
  /-- `TS_WIDTH`, a constant that no step writes; a field, so that statements hold for every width (30_encoding.md
  R57; 93_implementation_defined.md U4). -/
  tsWidth : TsWidth
  /-- What the environment will drive on the input ports, one entry a step opportunity, the next one first. -/
  inputs : List Ports
  /-- The words recorded by `Send`, oldest first. -/
  sends : List ColorWord
  /-- The values recorded by `Log`, oldest first. -/
  logs : List Digit
deriving DecidableEq, Repr

/-- The block raises no exception and no step of it can fail (60_exceptions.md R96, R97): there is no fault. -/
inductive Fault
deriving DecidableEq, Repr

/-- Why the model gives a step no meaning. -/
inductive Refusal
  /-- An instruction without a meaning yet. Raised by `exec`'s refused arms, of which there are none. Safe. -/
  | notModelled (mnemonic : String)
  /-- The step code `011xx` (30_encoding.md R59). Raised by `step`, which never forms that code. Safe. -/
  | unreachableStepCode
  /-- An event step given to `exec` while `PHASE = STREAM`, which R62 refuses. Raised by the four event meanings;
  never by `step`. Safe. -/
  | eventWhileStreaming
  /-- `PX_XFER` given to `exec` while `PHASE = IDLE`, which R62 refuses. Raised by its meaning; never by `step`.
  Safe. -/
  | wordWhileIdle
deriving DecidableEq, Repr

/-- The machine right after reset (70_reset_and_hazards.md R112, R113), with the ROM as it was built (R116), an
environment that has presented nothing and nothing recorded on either channel (logs 3, 4). -/
def State.reset : State where
  cnt := 0
  lastTs := lastTsReset
  phase := .idle
  k := 0
  pix := 0#25
  glyphRom := Config.glyphTable
  tsWidth := defaultTsWidth
  inputs := []
  sends := []
  logs := []

end Sys2Proof.Machine
end

