-- ==== Sys2Proof/Machine/Ops.lean ====
section
/-! DEFINITION. The functions that are parts of steps (30_encoding.md R54) and the named updates of the state.
The block has no exceptions; the analogue of taking one is `startRender` and the analogue of the return is
`finishRender` (60_exceptions.md R102, R103). -/

namespace Sys2Proof.Machine

/-! ### Comparator and counter -/

/-- A time taken as an unsigned `TS_WIDTH`-bit value (30_encoding.md R57). -/
def sampleNow (w : TsWidth) (t : Timestamp) : Timestamp := BitVec.ofNat 64 (t.toNat % 2 ^ w.val)

/-- `Elapsed(now, last)`: subtraction modulo 2^`TS_WIDTH` (40_debounce.md R63). -/
def elapsed (w : TsWidth) (now last : Timestamp) : Timestamp := sampleNow w (now - last)

/-- One reading of the comparison with the window (R8 `WINDOW_CMP`), unsigned. -/
def WindowCmp.holds : WindowCmp → Timestamp → Timestamp → Bool
  | .ge, e, w => decide (w.toNat ≤ e.toNat)
  | .gt, e, w => decide (w.toNat < e.toNat)

/-- `Accept(now, last)` (R64). -/
def accept (w : TsWidth) (now last : Timestamp) : Bool := windowCmp.holds (elapsed w now last) windowUs

/-- `SatInc(c)` (R66). -/
def satInc (c : Digit) : Digit := if c.val < 9 then c + 1 else c

/-- `SatDec(c)` (R67). -/
def satDec (c : Digit) : Digit := if 0 < c.val then c - 1 else c

/-! ### Glyph ROM and color map -/

/-- `RomRead(d)`; `none` is `invalid` (41_glyph_rom.md R82). -/
def romRead (rom : Vector Glyph 10) (d : RomAddress) : Option Glyph :=
  if h : d.toNat < 10 then some (rom.get ⟨d.toNat, h⟩) else none

/-- The word `{G, R, B, 0x00}` (20_memory.md R40). -/
def packColor (g r b : Channel) : ColorWord := g ++ r ++ b ++ 0#8

/-- `Color(b)` (42_pixel_mapper.md R87). -/
def color (b : Bool) : ColorWord := packColor 0x00#8 (if b then redOn else 0x00#8) 0x00#8

/-! ### Updates of the state -/

/-- `LAST_TS <- now`, with `now` taken at `TS_WIDTH` bits. -/
def State.setLastTs (now : Timestamp) (s : State) : State := { s with lastTs := sampleNow s.tsWidth now }

/-- `CNT <- c`. -/
def State.setCnt (c : Digit) (s : State) : State := { s with cnt := c }

/-- The three writes of `StartRender` (R72): `PIX <- g`, `K <- 0`, `PHASE <- STREAM`. -/
def State.latchGlyph (g : Glyph) (s : State) : State := { s with pix := g, k := 0, phase := .stream }

/-- `Log(c)` (R73). -/
def State.logRecord (c : Digit) (s : State) : State := { s with logs := s.logs ++ [c] }

/-- `Send(w)` (00_scope.md R13). -/
def State.send (w : ColorWord) (s : State) : State := { s with sends := s.sends ++ [w] }

/-- `K <- K + 1` (42_pixel_mapper.md R90). -/
def State.nextWord (s : State) : State := { s with k := s.k + 1 }

/-- The end of a render (R90): `PHASE <- IDLE`, `K <- 0`; `PIX` is left as it is. -/
def State.finishRender (s : State) : State := { s with phase := .idle, k := 0 }

/-- The writes of `RESET` (70_reset_and_hazards.md R112). The ROM, the channels and the environment are untouched. -/
def State.clearBlock (s : State) : State :=
  { s with cnt := 0, lastTs := lastTsReset, phase := .idle, k := 0, pix := 0#25 }

/-- The environment moves on to its next step opportunity (log 3). -/
def State.dropInput (s : State) : State := { s with inputs := s.inputs.tail }

/-! ### Shared effects -/

/-- `StartRender(c)` on the 4-bit value `c` (R72); an invalid lookup renders nothing. -/
def startRender (c : RomAddress) (s : State) : State :=
  match romRead s.glyphRom c with
  | none => s
  | some g => s.latchGlyph g

/-- An event step needs `PHASE = IDLE` (10_state.md R31); in `STREAM` it is refused, not run (30_encoding.md R62).
Log 5. -/
def takeEvent (effect : State → State) (s : State) : Host.Outcome State Fault Refusal :=
  match s.phase with
  | .idle => .next (effect s)
  | .stream => .refused .eventWhileStreaming

end Sys2Proof.Machine
end

