-- ==== Sys2Proof/Machine/Flags.lean ====
section
/-! DEFINITION. The block has no flags (10_state.md R27). Its output signals (R30) are functions of the state, and
the log signal is a function of one step. -/

namespace Sys2Proof.Machine

/-- `ev_ready` is `PHASE = IDLE` (R30). -/
def State.evReady (s : State) : Bool :=
  match s.phase with
  | .idle => true
  | .stream => false

/-- `px_valid` is `PHASE = STREAM` (R30). -/
def State.pxValid (s : State) : Bool :=
  match s.phase with
  | .idle => false
  | .stream => true

/-- The grid position of the presented word, `24 - K` (42_pixel_mapper.md R88, 30_encoding.md R57). -/
def State.pixelIndex (s : State) : Nat := 24 - s.k.val

/-- `Color(PIX[24 - K])`, the word of the render that is due (R89). -/
def State.streamWord (s : State) : ColorWord := color (s.pix.getLsbD s.pixelIndex)

/-- `px_word` (R30): the due word in `STREAM`, zero in `IDLE`, where a consumer must not read it. -/
def State.pxWord (s : State) : ColorWord :=
  match s.phase with
  | .idle => 0x00000000#32
  | .stream => s.streamWord

/-- A digit as a 4-bit value: the ROM address it is, and what `cnt_out` and `log_value` show. -/
def digitBits (c : Digit) : RomAddress := BitVec.ofNat 4 c.val

/-- `cnt_out` is `CNT` (R30). -/
def State.cntOut (s : State) : BitVec 4 := digitBits s.cnt

/-- `log_strobe` and `log_value` of the step from `before` to `after` (R30): `none` is no strobe. -/
def logSignal (before after : State) : Option (BitVec 4) :=
  (after.logs.drop before.logs.length).head?.map digitBits

end Sys2Proof.Machine
end

