-- ==== Sys2Proof/Machine/Operands.lean ====
section
/-! DEFINITION. How the operands of a step are formed from the ports and the state (30_encoding.md R55, R57). -/

namespace Sys2Proof.Machine

/-- What the environment drives now; when its schedule is exhausted it asks for nothing (log 3). -/
def State.ports (s : State) : Ports := s.inputs.headD Ports.quiet

/-- The step code `S = {rst, ev_valid AND ev_ready, px_valid AND px_ready, ev_line}` (R55). -/
def stepCode (p : Ports) (s : State) : StepCode :=
  BitVec.ofBool p.rst ++ BitVec.ofBool (p.evValid && s.evReady) ++ BitVec.ofBool (s.pxValid && p.pxReady) ++ p.evLine

/-- What the ports ask of the block: the decoded step code, with `now` sampled in this step (R57, 00_scope.md R16); the
meanings take it at `TS_WIDTH` bits. -/
def fetch (s : State) : Decoded := decode (stepCode s.ports s) s.ports.now

/-- Ports that offer what the bits of a step code ask for, with `now` = 0. -/
def portsOfCode (c : StepCode) : Ports :=
  { rst := c.getLsbD 4, evValid := c.getLsbD 3, evLine := c.extractLsb' 0 2, now := 0#64, pxReady := c.getLsbD 2 }

/-- The phase in which the ports can form a step code: an event needs `IDLE`, a word `STREAM`, a reset nothing. -/
def phaseForCode (c : StepCode) (ph : Phase) : Phase :=
  if c.getLsbD 4 then ph
  else if c.getLsbD 3 then .idle
  else if c.getLsbD 2 then .stream
  else ph

/-- The state in which the next step forms the step code `w`: the environment presents it before what it had
scheduled, and the block is in the phase that code needs. A number that stands for no step is not presented: the
environment is quiet for one step opportunity. Log 14. -/
def placeCode (nbits w : Nat) (s : State) : State :=
  match decodeTableWord nbits w with
  | some _ =>
    let c := BitVec.ofNat 5 (w % 2 ^ nbits)
    { s with inputs := portsOfCode c :: s.inputs, phase := phaseForCode c s.phase }
  | none => { s with inputs := Ports.quiet :: s.inputs }

end Sys2Proof.Machine
end

