-- ==== Sys2Proof/Machine/Debounce.lean ====
section
/-! DEFINITION. The event steps (40_debounce.md R74, R75, R76). -/

namespace Sys2Proof.Machine

/-- `StartRender(c)` and `Log(c)`: what a changing event shows (R72, R73). -/
def showDigit (c : Digit) (s : State) : State := (startRender (digitBits c) s).logRecord c

/-- The common text of R74 and R75: a too early event writes nothing (R70); an accepted one writes `LAST_TS`; where
the delta saturates that is all (R71, unless `RENDER_ON_SATURATE`), else the new value is written and shown. The
check of the window comes first (60_exceptions.md R101). -/
def countEvent (delta : Digit → Digit) (now : Timestamp) (s : State) : State :=
  if accept s.tsWidth now s.lastTs then
    if delta s.cnt = s.cnt then
      if renderOnSaturate then showDigit s.cnt (s.setLastTs now) else s.setLastTs now
    else showDigit (delta s.cnt) ((s.setLastTs now).setCnt (delta s.cnt))
  else s

/-- An event with an unknown line code: no read, no write, no `Send`, no `Log` (R76; conflict C2). -/
def unknownLineEvent (_now : Timestamp) (s : State) : State := s

/-- `EV_UP` (R74). -/
def execEvUp (now : Timestamp) (s : State) : Host.Outcome State Fault Refusal :=
  takeEvent (countEvent satInc now) s

/-- `EV_DOWN` (R75). -/
def execEvDown (now : Timestamp) (s : State) : Host.Outcome State Fault Refusal :=
  takeEvent (countEvent satDec now) s

/-- `EV_NOP00` (R76). -/
def execEvNop00 (now : Timestamp) (s : State) : Host.Outcome State Fault Refusal :=
  takeEvent (unknownLineEvent now) s

/-- `EV_NOP11` (R76). -/
def execEvNop11 (now : Timestamp) (s : State) : Host.Outcome State Fault Refusal :=
  takeEvent (unknownLineEvent now) s

end Sys2Proof.Machine
end

