-- ==== Sys2Proof/Machine/PixelMapper.lean ====
section
/-! DEFINITION. The word transfer step (42_pixel_mapper.md R90). -/

namespace Sys2Proof.Machine

/-- After the word is sent: the 25th word ends the render, any other moves on by one (R90). -/
def advanceStream (s : State) : State := if s.k = 24 then s.finishRender else s.nextWord

/-- `PX_XFER` (R90). It needs `PHASE = STREAM`; in `IDLE` it is refused, not run (30_encoding.md R62). Log 5. -/
def execPxXfer (s : State) : Host.Outcome State Fault Refusal :=
  match s.phase with
  | .stream => .next (advanceStream (s.send s.streamWord))
  | .idle => .refused .wordWhileIdle

end Sys2Proof.Machine
end

