-- ==== Sys2Proof/Machine/ResetStep.lean ====
section
/-! DEFINITION. The reset step (70_reset_and_hazards.md R112). -/

namespace Sys2Proof.Machine

/-- `RESET` (R112): it can be taken in any state; no `Send`, no `Log`. -/
def execReset (s : State) : Host.Outcome State Fault Refusal := .next s.clearBlock

end Sys2Proof.Machine
end

