-- ==== Sys2Proof/Machine/Dispatch.lean ====
section
/-! DEFINITION. The dispatch: one direct call of a meaning per step of the opcode table. -/

namespace Sys2Proof.Machine

def exec (i : Instr) (s : State) : Host.Outcome State Fault Refusal :=
  match i with
  | .reset => Sys2Proof.Machine.execReset s
  | .evUp now => Sys2Proof.Machine.execEvUp now s
  | .evDown now => Sys2Proof.Machine.execEvDown now s
  | .evNop00 now => Sys2Proof.Machine.execEvNop00 now s
  | .evNop11 now => Sys2Proof.Machine.execEvNop11 now s
  | .pxXfer => Sys2Proof.Machine.execPxXfer s

end Sys2Proof.Machine
end

