-- ==== Sys2Proof/Machine/Step.lean ====
section
/-! DEFINITION. One step of the machine: what the ports ask for is decoded and run, and the environment moves on to
its next step opportunity. -/

namespace Sys2Proof.Machine

/-- One step opportunity. `000xx` is no step: the block stays as it is and only the environment moves on
(30_encoding.md R59). -/
def step (s : State) : Host.Outcome State Fault Refusal :=
  match fetch s with
  | .step i => exec i s.dropInput
  | .wait => .next s.dropInput
  | .unreachable => .refused .unreachableStepCode

/-- `s` with the step whose table word is `w` presented to the block, so that the next step runs it. Log 14. -/
def State.withFetchWord (s : State) (nbits w : Nat) : State := placeCode nbits w s

end Sys2Proof.Machine
end

