-- ==== Sys2Proof/Machine/Environment.lean ====
section
/-! DEFINITION. The edge detector, which belongs to the environment (10_state.md R33): it turns pin levels into edge
events. Which events are then presented, in which order and when, is the environment's liberty (60_exceptions.md R99,
R100), so nothing here feeds `inputs`. -/

namespace Sys2Proof.Machine

/-- The levels of the two active-low button lines; `true` is 1, the level the pull-up gives a released button. -/
structure Levels where
  up : Bool
  down : Bool
deriving DecidableEq, Repr

/-- A change of a line from 1 to 0. -/
def fallingEdge (before after : Bool) : Bool := before && !after

/-- The events of a change of levels: one for each falling edge, with that line's code, so two for simultaneous edges
(60_exceptions.md R100; presenting them in the other order is as good). A rising edge produces none. -/
def edgeEvents (before after : Levels) : List LineCode :=
  (if fallingEdge before.up after.up then [0b01#2] else []) ++
    (if fallingEdge before.down after.down then [0b10#2] else [])

end Sys2Proof.Machine
end

