-- ==== Sys2Proof/Machine/EventProgram.lean ====
section
/-! DEFINITION. Event programs (30_encoding.md R62): the meaning of a line, the refusal of an illegal one, and the
schedule of ports that presents a program to the block. -/

namespace Sys2Proof.Machine

/-- Run the steps of a list one after the other, stopping at the first that is refused. -/
def execSteps : List Instr → State → Host.Outcome State Fault Refusal
  | [], s => .next s
  | i :: is, s =>
    match exec i s with
    | .next t => execSteps is t
    | .fault r => .fault r
    | .refused r => .refused r

/-- The number of words a render in progress still has to send: 25 right after a changing event, 0 in `IDLE`. -/
def wordsLeft (s : State) : Nat :=
  match s.phase with
  | .idle => 0
  | .stream => 25 - s.k.val

/-- `DRAIN`: `PX` repeated while `PHASE = STREAM` (R62). Log 16. -/
def runDrain (s : State) : Host.Outcome State Fault Refusal :=
  execSteps (List.replicate (wordsLeft s) .pxXfer) s

/-- `PRESS`: the event, then `DRAIN` (R62). -/
def runPress (i : Instr) (s : State) : Host.Outcome State Fault Refusal :=
  match exec i s with
  | .next t => runDrain t
  | .fault r => .fault r
  | .refused r => .refused r

/-- One line of an event program (R62). -/
def runLine : Line → State → Host.Outcome State Fault Refusal
  | .reset, s => exec .reset s
  | .up t, s => exec (.evUp (BitVec.ofNat 64 t)) s
  | .down t, s => exec (.evDown (BitVec.ofNat 64 t)) s
  | .nop0 t, s => exec (.evNop00 (BitVec.ofNat 64 t)) s
  | .nop3 t, s => exec (.evNop11 (BitVec.ofNat 64 t)) s
  | .px, s => exec .pxXfer s
  | .drain, s => runDrain s
  | .pressUp t, s => runPress (.evUp (BitVec.ofNat 64 t)) s
  | .pressDown t, s => runPress (.evDown (BitVec.ofNat 64 t)) s

/-- An event program; one illegal line refuses the whole of it. -/
def runProgram : List Line → State → Host.Outcome State Fault Refusal
  | [], s => .next s
  | l :: ls, s =>
    match runLine l s with
    | .next t => runProgram ls t
    | .fault r => .fault r
    | .refused r => .refused r

/-- Ports that present an edge event with this line code at time `t`. -/
def eventPorts (line : LineCode) (t : Nat) : Ports :=
  { rst := false, evValid := true, evLine := line, now := BitVec.ofNat 64 t, pxReady := false }

/-- Ports that ask for a reset. -/
def resetPorts : Ports := { Ports.quiet with rst := true }

/-- Ports on which the peripheral is ready for a word. -/
def readyPorts : Ports := { Ports.quiet with pxReady := true }

/-- The ports that present a line to the block, in the step codes of R62's table. A `DRAIN` is 25 opportunities to
take a word, of which those that come in `IDLE` pass without a step. -/
def lineSchedule : Line → List Ports
  | .reset => [resetPorts]
  | .up t => [eventPorts 0b01#2 t]
  | .down t => [eventPorts 0b10#2 t]
  | .nop0 t => [eventPorts 0b00#2 t]
  | .nop3 t => [eventPorts 0b11#2 t]
  | .px => [readyPorts]
  | .drain => List.replicate 25 readyPorts
  | .pressUp t => eventPorts 0b01#2 t :: List.replicate 25 readyPorts
  | .pressDown t => eventPorts 0b10#2 t :: List.replicate 25 readyPorts

/-- The schedule of a program. -/
def programSchedule : List Line → List Ports
  | [] => []
  | l :: ls => lineSchedule l ++ programSchedule ls

end Sys2Proof.Machine
end

