-- ==== Sys2Proof/Safety.lean ====
section
/-! DEFINITION. The terms in which claims about runs are stated: transfers, the window in plain arithmetic, the words
of a render, the invariants of 10_state.md R25 and the environment's duty on time. -/

namespace Sys2Proof

/-- The step is an edge event (30_encoding.md R54). -/
def Instr.isEvent : Instr → Bool
  | .evUp _ | .evDown _ | .evNop00 _ | .evNop11 _ => true
  | .reset | .pxXfer => false

namespace Machine

/-- `n` step opportunities of the machine, as the host runs it. -/
def run (n : Nat) (s : State) : Host.Outcome State Fault Refusal := core.run n s

/-- The edge event of a known button: ButtonUp for `true`, ButtonDown for `false`. -/
def buttonEvent (up : Bool) (now : Timestamp) : Instr := if up then .evUp now else .evDown now

/-- An event transfer happens in the next step (10_state.md R31). -/
def State.takesEvent (s : State) : Bool := s.ports.evValid && s.evReady && !s.ports.rst

/-- A word transfer happens in the next step (10_state.md R32). -/
def State.takesWord (s : State) : Bool := s.pxValid && s.ports.pxReady && !s.ports.rst

/-- `(now - last) mod 2^W` on numbers, for a width `W` of at most 64 (00_scope.md R12). -/
def elapsedUs (w : TsWidth) (now last : Timestamp) : Nat := (now.toNat + 2 ^ 64 - last.toNat) % 2 ^ w.val

/-- At least 75 ms lie between the last accepted event and `now` (40_debounce.md R64), in plain arithmetic. -/
abbrev OutsideWindow (w : TsWidth) (now last : Timestamp) : Prop := 75000 ≤ elapsedUs w now last

/-- The 25 words of the render of a glyph, first word first: word `j` carries grid position `24 - j`
(42_pixel_mapper.md R88, R92). -/
def glyphWords (g : Glyph) : List ColorWord := (List.range 25).map fun j => color (g.getLsbD (24 - j))

/-- The invariants I1, I2 and I3 of 10_state.md R25. -/
abbrev State.Coherent (s : State) : Prop :=
  s.cntOut.toNat ≤ 9 ∧ (s.phase = .stream → s.k.val ≤ 24) ∧
    (s.phase = .stream → romRead s.glyphRom s.cntOut = some s.pix)

/-- The duty E1 of 70_reset_and_hazards.md R117 over the next `n` steps: across the event steps between two resets
`now`, at `TS_WIDTH` bits, never decreases. `low` is the last `now` taken. -/
def MonotoneTime : Nat → Timestamp → State → Prop
  | 0, _, _ => True
  | n + 1, low, s =>
    (s.takesEvent = true → low.toNat ≤ (sampleNow s.tsWidth s.ports.now).toNat) ∧
      match step s with
      | .next t =>
        MonotoneTime n
          (if s.ports.rst then 0#64 else if s.takesEvent then sampleNow s.tsWidth s.ports.now else low) t
      | .fault _ => True
      | .refused _ => True

end Machine

end Sys2Proof
end

