-- ==== Sys2Proof/Certificates/Slice0/Obligations.lean ====
section
/-! DEFINITION. The statements for the provers. Each says which rule of the spec it formalises; where the spec marks a
rule as its own decision or inference, the statement is 'derived' and its docstring names the decision. Statements
about `step` speak of the schedule `inputs`, the model's form of the environment (log 3). -/

open Sys2Proof Sys2Proof.Machine

/-! ### Encoding -/

/-- A step encodes to a code that decodes to it, whatever stands in the ignored bits, and a code that decodes to a
step is an encoding of it: no bit of the code and no bit of `now` is dropped (30_encoding.md R55, R58; D3). -/
def Obligations.DecodeAndEncodeAgree : Prop :=
  (∀ (ignored : StepCode) (i : Instr), decodeWord (encodeWith ignored i) = .step i) ∧
  ∀ (w : StepWord) (i : Instr), decodeWord w = .step i →
    (encodeWith w.code i).code = w.code ∧ (i.isEvent = true → encodeWith w.code i = w)

/-- The decode table for all 32 codes (30_encoding.md R58, R59; D3): `1xxxx` is `RESET`, `01ll` the events, `001xx`
a word, `011xx` refused, `000xx` no step. -/
def Obligations.DecodeTableCoversEveryCode : Prop :=
  ∀ (S : StepCode) (now : Timestamp),
    (16 ≤ S.toNat → decode S now = .step .reset) ∧
    (12 ≤ S.toNat ∧ S.toNat ≤ 15 → decode S now = .unreachable) ∧
    (S.toNat = 11 → decode S now = .step (.evNop11 now)) ∧
    (S.toNat = 10 → decode S now = .step (.evDown now)) ∧
    (S.toNat = 9 → decode S now = .step (.evUp now)) ∧
    (S.toNat = 8 → decode S now = .step (.evNop00 now)) ∧
    (4 ≤ S.toNat ∧ S.toNat ≤ 7 → decode S now = .step .pxXfer) ∧
    (S.toNat ≤ 3 → decode S now = .wait)

/-- A few table words, written out from the encodings of R58. -/
def Obligations.TableWordsDecodeToTheirSteps : Prop :=
  decodeTableWord 8 0b10000 = some .reset ∧ decodeTableWord 8 0b11001 = some .reset ∧
  decodeTableWord 8 0b01001 = some (.evUp 0#64) ∧ decodeTableWord 8 0b01010 = some (.evDown 0#64) ∧
  decodeTableWord 8 0b01000 = some (.evNop00 0#64) ∧ decodeTableWord 8 0b01011 = some (.evNop11 0#64) ∧
  decodeTableWord 8 0b00111 = some .pxXfer ∧ decodeTableWord 8 0b01100 = none

/-- The bits of the step code (30_encoding.md R55; D3). -/
def Obligations.StepCodeIsFormedFromThePorts : Prop :=
  ∀ (p : Ports) (s : State),
    (stepCode p s).getLsbD 4 = p.rst ∧
    ((stepCode p s).getLsbD 3 = true ↔ p.evValid = true ∧ s.phase = .idle) ∧
    ((stepCode p s).getLsbD 2 = true ↔ s.phase = .stream ∧ p.pxReady = true) ∧
    (stepCode p s).extractLsb' 0 2 = p.evLine

/-! ### The step -/

/-- When the environment drives `p` and the code the ports form decodes to a step `i`, the machine runs `i` and the
environment moves on to its next entry. Nothing else is added around `exec` (log 3). -/
def Obligations.StepRunsTheDecodedStep : Prop :=
  ∀ (s : State) (p : Ports) (rest : List Ports) (i : Instr),
    s.inputs = p :: rest → decode (stepCode p s) p.now = .step i →
    step s = exec i { s with inputs := rest }

/-- `000xx` is not a step: without a reset, an event transfer or a word transfer the block stays as it is and only
the environment moves on (30_encoding.md R59; log 3). An exhausted schedule is such a case. -/
def Obligations.WithoutATransferTheBlockWaits : Prop :=
  (∀ s : State, s.ports.rst = false → s.takesEvent = false → s.takesWord = false →
    step s = .next { s with inputs := s.inputs.tail }) ∧
  ∀ s : State, s.inputs = [] → step s = .next s

/-- No step can fail (60_exceptions.md R96): the machine answers a next state in every state, and each of the six
steps does where its needs hold (a reset needs nothing, an event `IDLE`, a word `STREAM`). -/
def Obligations.NoStepCanFail : Prop :=
  (∀ s : State, ∃ t : State, step s = .next t) ∧
  ∀ (i : Instr) (s : State),
    (i = .reset ∨ (i.isEvent = true ∧ s.phase = .idle) ∨ (i = .pxXfer ∧ s.phase = .stream)) →
    ∃ t : State, exec i s = .next t

/-- The ports never form `011xx` (30_encoding.md R59, the spec's inference from R30). -/
def Obligations.UnreachableCodeIsNeverFormed : Prop :=
  ∀ (p : Ports) (s : State) (now : Timestamp), decode (stepCode p s) now ≠ .unreachable

/-- An event transfer happens when `ev_valid`, `ev_ready` and no reset hold, and then the step of the presented line
code with the presented `now` is run; a word transfer happens when `px_valid`, `px_ready` and no reset hold
(10_state.md R31, R32; 30_encoding.md R56; D4, D15, D16). -/
def Obligations.TransfersHappenExactlyWhenOffered : Prop :=
  ∀ s : State,
    (s.takesEvent = true ↔ ∃ i, fetch s = .step i ∧ i.isEvent = true) ∧
    (s.takesWord = true ↔ fetch s = .step .pxXfer) ∧
    (s.takesEvent = true →
      fetch s = .step (if s.ports.evLine = 0b01#2 then .evUp s.ports.now
        else if s.ports.evLine = 0b10#2 then .evDown s.ports.now
        else if s.ports.evLine = 0b00#2 then .evNop00 s.ports.now else .evNop11 s.ports.now))

/-- Reset wins over every other step, whatever else is offered (60_exceptions.md R101, 70_reset_and_hazards.md R112;
D22, D9). -/
def Obligations.ResetWinsOverEveryOtherStep : Prop :=
  ∀ (s : State) (p : Ports) (rest : List Ports), s.inputs = p :: rest → p.rst = true →
    step s = .next { s with cnt := 0, lastTs := 0#64, phase := .idle, k := 0, pix := 0#25, inputs := rest }

/-- What the ports hold outside a transfer has no effect (70_reset_and_hazards.md R117, duty E4). -/
def Obligations.PortsOutsideTransfersHaveNoEffect : Prop :=
  ∀ (s : State) (p q : Ports) (rest : List Ports), p.rst = q.rst →
    (p.rst = false → s.phase = .idle →
      p.evValid = q.evValid ∧ (p.evValid = true → p.evLine = q.evLine ∧ p.now = q.now)) →
    (p.rst = false → s.phase = .stream → p.pxReady = q.pxReady) →
    step { s with inputs := p :: rest } = step { s with inputs := q :: rest }

/-- A placed table word is what the next step runs, in the phase that the step needs (log 14). -/
def Obligations.PlacedWordIsRunNext : Prop :=
  ∀ (s : State) (nbits w : Nat) (i : Instr), decodeTableWord nbits w = some i →
    step (s.withFetchWord nbits w) =
      exec i { s with phase := if i.isEvent then .idle else if i = .pxXfer then .stream else s.phase }

/-! ### Comparator -/

/-- `Accept` compares the elapsed time with 75000, unsigned, and equality accepts; an event of either line is measured
from the one `LAST_TS`, discarded entirely if it is not accepted, and becomes the new `LAST_TS` if it is
(40_debounce.md R64; conflict C1; log 10). -/
def Obligations.EitherLineIsAcceptedFromTheWindowOn : Prop :=
  (∀ (w : TsWidth) (now last : Timestamp), accept w now last = true ↔ 75000 ≤ (elapsed w now last).toNat) ∧
  ∀ (up : Bool) (now : Timestamp) (s : State), s.phase = .idle →
    ∃ t : State, exec (buttonEvent up now) s = .next t ∧
      (accept s.tsWidth now s.lastTs = true → t.lastTs.toNat = now.toNat % 2 ^ s.tsWidth.val) ∧
      (accept s.tsWidth now s.lastTs = false → t = s)

/-- For times of `W` = `TS_WIDTH` bits the elapsed time is the true difference when time has not run backwards, else
the difference modulo 2^W, and then the event is accepted unless it is less than a window short of a full turn
(40_debounce.md R63, R65; D6, D8, D29). -/
def Obligations.ElapsedWrapsAtTheTimestampWidth : Prop :=
  ∀ (w : TsWidth) (now last : Timestamp), now.toNat < 2 ^ w.val → last.toNat < 2 ^ w.val →
    (last.toNat ≤ now.toNat → (elapsed w now last).toNat = now.toNat - last.toNat) ∧
    (now.toNat < last.toNat → (elapsed w now last).toNat = 2 ^ w.val - (last.toNat - now.toNat)) ∧
    (now.toNat < last.toNat → last.toNat - now.toNat ≤ 2 ^ w.val - 75000 → accept w now last = true)

/-- The block takes `now` as an unsigned `TS_WIDTH`-bit value: a zero-extended value of a source of that width is taken
whole, and of any other only the low bits count, for the comparison as for the timestamp (30_encoding.md R57; D6,
log 9). At 64 bits every value is taken whole. -/
def Obligations.NowIsTakenAtTheTimestampWidth : Prop :=
  (∀ (w : TsWidth) (now : Timestamp), (sampleNow w now).toNat = now.toNat % 2 ^ w.val) ∧
  (∀ (w : TsWidth) (now : Timestamp), w.val = 64 ∨ now.toNat < 2 ^ w.val → sampleNow w now = now) ∧
  ∀ (up : Bool) (now now' : Timestamp) (s : State), now.toNat % 2 ^ s.tsWidth.val = now'.toNat % 2 ^ s.tsWidth.val →
    exec (buttonEvent up now) s = exec (buttonEvent up now') s

/-! ### The steps: result, completion and frame in one equation -/

/-- `EV_UP` (40_debounce.md R74): a too early event writes nothing; at 9 an accepted one writes `LAST_TS` only; below 9
it writes `LAST_TS`, the next value, the glyph latch, `K`, `PHASE` and one log record. Nothing else changes. `T` is `now`
at `TS_WIDTH` bits, at the width 64 `now` itself. (Logs 10 and 11 name what the reference may do otherwise at the
window's edge and at 9.) -/
def Obligations.EvUpCountsShowsAndStamps : Prop :=
  ∀ (now T : Timestamp) (s : State), s.phase = .idle → T.toNat = now.toNat % 2 ^ s.tsWidth.val →
    (¬ OutsideWindow s.tsWidth now s.lastTs → exec (.evUp now) s = .next s) ∧
    (OutsideWindow s.tsWidth now s.lastTs → s.cnt = 9 → exec (.evUp now) s = .next { s with lastTs := T }) ∧
    (OutsideWindow s.tsWidth now s.lastTs → ∀ c : Digit, c.val = s.cnt.val + 1 →
      exec (.evUp now) s = .next { s with
        lastTs := T, cnt := c, phase := .stream, k := 0, pix := s.glyphRom.get c, logs := s.logs ++ [c] })

/-- `EV_DOWN` (40_debounce.md R75), the mirror image: at 0 an accepted event writes `LAST_TS` only (logs 10, 11). -/
def Obligations.EvDownCountsShowsAndStamps : Prop :=
  ∀ (now T : Timestamp) (s : State), s.phase = .idle → T.toNat = now.toNat % 2 ^ s.tsWidth.val →
    (¬ OutsideWindow s.tsWidth now s.lastTs → exec (.evDown now) s = .next s) ∧
    (OutsideWindow s.tsWidth now s.lastTs → s.cnt = 0 → exec (.evDown now) s = .next { s with lastTs := T }) ∧
    (OutsideWindow s.tsWidth now s.lastTs → ∀ c : Digit, c.val + 1 = s.cnt.val →
      exec (.evDown now) s = .next { s with
        lastTs := T, cnt := c, phase := .stream, k := 0, pix := s.glyphRom.get c, logs := s.logs ++ [c] })

/-- `EV_NOP00` and `EV_NOP11` complete and leave everything as it was, `LAST_TS` included, whatever `now` is
(40_debounce.md R76; D10, conflict C2; log 12). -/
def Obligations.UnknownLineEventsChangeNothing : Prop :=
  ∀ (now : Timestamp) (s : State), s.phase = .idle →
    exec (.evNop00 now) s = .next s ∧ exec (.evNop11 now) s = .next s

/-- `PX_XFER` (42_pixel_mapper.md R90): one word with the intensity of grid position `24 - K` in its red channel is
sent; the word at `K` = 24 ends the render, any other moves `K` on by one. `PIX` and everything else stay. (The lit
value is the constant `RED_ON`, log 7.) -/
def Obligations.PxXferSendsTheDueWord : Prop :=
  ∀ (s : State) (w : ColorWord), s.phase = .stream →
    w = 0x00#8 ++ (if s.pix.getLsbD (24 - s.k.val) then redOn else 0x00#8) ++ 0x00#8 ++ 0x00#8 →
    (s.k.val = 24 → exec .pxXfer s = .next { s with sends := s.sends ++ [w], phase := .idle, k := 0 }) ∧
    (∀ k' : WordIndex, k'.val = s.k.val + 1 →
      exec .pxXfer s = .next { s with sends := s.sends ++ [w], k := k' })

/-- `RESET` (70_reset_and_hazards.md R112; D22, D9) can be taken in any state and sets the five elements; the ROM and
both output channels are untouched. -/
def Obligations.ResetSetsTheFiveElements : Prop :=
  ∀ s : State, exec .reset s = .next { s with cnt := 0, lastTs := 0#64, phase := .idle, k := 0, pix := 0#25 }

/-- Steps whose needs do not hold are refused, not run (30_encoding.md R62; log 5). -/
def Obligations.StepsOutOfPhaseAreRefused : Prop :=
  (∀ (i : Instr) (s : State), i.isEvent = true → s.phase = .stream → exec i s = .refused .eventWhileStreaming) ∧
  ∀ s : State, s.phase = .idle → exec .pxXfer s = .refused .wordWhileIdle

/-! ### Memory and output signals -/

/-- `RomRead` answers the entry of a digit and is invalid at 10..15, where `StartRender` does nothing
(41_glyph_rom.md R82, 40_debounce.md R72; D18). -/
def Obligations.RomReadSelectsAnEntryOrIsInvalid : Prop :=
  (∀ (rom : Vector Glyph 10) (d : RomAddress) (c : Digit), d.toNat = c.val → romRead rom d = some (rom.get c)) ∧
  (∀ (rom : Vector Glyph 10) (d : RomAddress), 10 ≤ d.toNat → romRead rom d = none) ∧
  ∀ (s : State) (d : RomAddress), 10 ≤ d.toNat → startRender d s = s

/-- The ROM cannot be written: along every run, resets included, every lookup gives the same 25 bits
(20_memory.md R52). -/
def Obligations.GlyphRomNeverChanges : Prop :=
  ∀ (n : Nat) (s t : State), run n s = .next t → ∀ d : RomAddress, romRead t.glyphRom d = romRead s.glyphRom d

/-- The level outputs as functions of the state (10_state.md R30; D2). -/
def Obligations.OutputSignalsFollowThePhase : Prop :=
  ∀ s : State,
    (s.evReady = true ↔ s.phase = .idle) ∧ (s.pxValid = true ↔ s.phase = .stream) ∧
    (s.phase = .idle → s.pxWord = 0x00000000#32) ∧
    (s.phase = .stream → s.pxWord = color (s.pix.getLsbD (24 - s.k.val))) ∧
    s.cntOut.toNat = s.cnt.val

/-- What a step records: a word transfer sends exactly the presented word, a changing event logs exactly the new
value and strobes the log signal with it; no other step records anything (20_memory.md R46, 10_state.md R30, R32;
D2, D16, D17; log 4). -/
def Obligations.RecordsOfAStep : Prop :=
  ∀ s t : State, step s = .next t →
    t.sends = (if s.takesWord then s.sends ++ [s.pxWord] else s.sends) ∧
    (s.takesEvent = true ∧ t.cnt ≠ s.cnt → t.logs = s.logs ++ [t.cnt] ∧ logSignal s t = some t.cntOut) ∧
    (¬ (s.takesEvent = true ∧ t.cnt ≠ s.cnt) → t.logs = s.logs ∧ logSignal s t = none)

/-- Every word a step sends is off or dim red (42_pixel_mapper.md R87; the value 0x19 is decision D12, log 7). -/
def Obligations.EveryWordIsOffOrDimRed : Prop :=
  ∀ s t : State, step s = .next t → ∀ w ∈ t.sends, w ∈ s.sends ∨ w = 0x00000000#32 ∨ w = 0x00190000#32

/-! ### Invariants -/

/-- Every step keeps I1, I2 and I3 (10_state.md R25, the spec's inference), also from states no run reaches. -/
def Obligations.StepKeepsTheStateCoherent : Prop :=
  ∀ s t : State, s.Coherent → step s = .next t → t.Coherent

/-- Every step keeps `TS_WIDTH`, and keeps `LAST_TS` within that many bits (10_state.md R18, R20; D6, log 9). -/
def Obligations.StepKeepsTheTimestampWithinItsWidth : Prop :=
  ∀ s t : State, s.lastTs.toNat < 2 ^ s.tsWidth.val → step s = .next t →
    t.tsWidth = s.tsWidth ∧ t.lastTs.toNat < 2 ^ t.tsWidth.val

/-- The reset state meets the invariants, whatever the ROM holds, the width is and the environment has scheduled. -/
def Obligations.ResetStateIsCoherent : Prop :=
  ∀ (rom : Vector Glyph 10) (w : TsWidth) (ins : List Ports),
    State.Coherent { State.reset with glyphRom := rom, tsWidth := w, inputs := ins } ∧
    State.reset.lastTs.toNat < 2 ^ w.val

/-- In a coherent state a step sends nothing, or a word of the glyph of the current counter value: no stale display
(20_memory.md R49, the spec's inference). -/
def Obligations.WordsEncodeTheCounterValue : Prop :=
  ∀ s t : State, s.Coherent → step s = .next t →
    t.sends = s.sends ∨ t.sends = s.sends ++ [color ((s.glyphRom.get s.cnt).getLsbD (24 - s.k.val))]

/-- While a render is in progress `ev_ready` is 0 and no event step can begin: whatever the ports hold, a step other
than a reset leaves the counter, the timestamp, the latch, the ROM and the log as they are (60_exceptions.md R104). -/
def Obligations.NoEventBeginsDuringARender : Prop :=
  ∀ s : State, s.phase = .stream →
    s.evReady = false ∧ (∀ i, fetch s = .step i → i.isEvent = false) ∧
    ∀ t : State, s.ports.rst = false → step s = .next t →
      t.cnt = s.cnt ∧ t.lastTs = s.lastTs ∧ t.pix = s.pix ∧ t.glyphRom = s.glyphRom ∧ t.logs = s.logs

/-- ButtonUp increments and ButtonDown decrements (40_debounce.md R68). Positive half: an accepted event of the Up line
below 9 raises the counter by one, of the Down line above 0 lowers it by one. Negative half: whenever a step other than
a reset changes the counter, it took an event outside the window and the line says which way the counter went by one; the
same step stamped the time and began the render of the new value. -/
def Obligations.TheLineDecidesTheDirection : Prop :=
  (∀ s : State, s.takesEvent = true → OutsideWindow s.tsWidth s.ports.now s.lastTs →
    (s.ports.evLine = 0b01#2 → s.cnt.val < 9 → ∃ t : State, step s = .next t ∧ t.cnt.val = s.cnt.val + 1) ∧
    (s.ports.evLine = 0b10#2 → 0 < s.cnt.val → ∃ t : State, step s = .next t ∧ t.cnt.val + 1 = s.cnt.val)) ∧
  ∀ s t : State, step s = .next t → s.ports.rst = false → t.cnt ≠ s.cnt →
    s.takesEvent = true ∧ OutsideWindow s.tsWidth s.ports.now s.lastTs ∧
    (s.ports.evLine = 0b01#2 ∧ t.cnt.val = s.cnt.val + 1 ∨ s.ports.evLine = 0b10#2 ∧ t.cnt.val + 1 = s.cnt.val) ∧
    t.lastTs = sampleNow s.tsWidth s.ports.now ∧ t.phase = .stream ∧ t.k = 0 ∧ t.pix = s.glyphRom.get t.cnt

/-- The counter and the timestamp are written by a reset or an accepted event on a known line and by nothing else
(10_state.md R26, 20_memory.md R47; D2, D10, D21). -/
def Obligations.OnlyEventsAndResetWriteTheDataRegisters : Prop :=
  ∀ s t : State, step s = .next t → (t.cnt ≠ s.cnt ∨ t.lastTs ≠ s.lastTs) →
    s.ports.rst = true ∨
    (s.takesEvent = true ∧ (s.ports.evLine = 0b01#2 ∨ s.ports.evLine = 0b10#2) ∧
      OutsideWindow s.tsWidth s.ports.now s.lastTs ∧ t.lastTs = sampleNow s.tsWidth s.ports.now)

/-! ### Runs -/

/-- A changing event is followed by its whole render, and by nothing else, before any other event is taken: as soon
as the peripheral has been ready 25 times, whatever the environment presents meanwhile, exactly the 25 words of the
new value's glyph have been sent in reversed grid order and the block is idle again (42_pixel_mapper.md R95). -/
def Obligations.ChangingEventSendsExactlyItsRender : Prop :=
  ∀ (up : Bool) (now : Timestamp) (s t : State) (ins : List Ports) (last : Ports) (rest : List Ports),
    exec (buttonEvent up now) s = .next t → t.cnt ≠ s.cnt →
    (∀ p ∈ ins, p.rst = false) → ins.countP (·.pxReady) = 24 → last.rst = false → last.pxReady = true →
    run (ins.length + 1) { t with inputs := ins ++ last :: rest } =
      .next { t with
        inputs := rest, phase := .idle, k := 0, sends := s.sends ++ glyphWords (s.glyphRom.get t.cnt) }

/-- A reset cuts a render short: the peripheral has received as many words as it was ready for, and the rest are
never sent (70_reset_and_hazards.md R114; D22). -/
def Obligations.ResetCutsTheRenderShort : Prop :=
  ∀ (up : Bool) (now : Timestamp) (s t : State) (ins : List Ports) (r : Ports) (rest : List Ports),
    exec (buttonEvent up now) s = .next t → t.cnt ≠ s.cnt →
    (∀ p ∈ ins, p.rst = false) → ins.countP (·.pxReady) ≤ 24 → r.rst = true →
    run (ins.length + 1) { t with inputs := ins ++ r :: rest } =
      .next { t with
        inputs := rest, cnt := 0, lastTs := 0#64, phase := .idle, k := 0, pix := 0#25,
        sends := s.sends ++ (glyphWords (s.glyphRom.get t.cnt)).take (ins.countP (·.pxReady)) }

/-- While the peripheral is not ready the presented word is held, for any number of opportunities and whatever the
event port holds (42_pixel_mapper.md R89, 70_reset_and_hazards.md R121). -/
def Obligations.PresentedWordIsHeldWhileThePeripheralStalls : Prop :=
  ∀ (s : State) (ins rest : List Ports), s.phase = .stream → (∀ p ∈ ins, p.rst = false ∧ p.pxReady = false) →
    ∃ t : State, run ins.length { s with inputs := ins ++ rest } = .next t ∧
      t = { s with inputs := rest } ∧ t.pxWord = color (s.pix.getLsbD (24 - s.k.val))

/-- No render state survives: what an earlier render left in `K` and `PIX` never shows. Two runs that start idle and
differ only there stay equal in everything else, and equal altogether while a render is in progress
(42_pixel_mapper.md R94). -/
def Obligations.LeftoverRenderStateIsInvisible : Prop :=
  ∀ (n : Nat) (s t : State) (k' : WordIndex) (pix' : Glyph), s.phase = .idle → run n s = .next t →
    ∃ t' : State, run n { s with k := k', pix := pix' } = .next t' ∧
      t' = { t with k := t'.k, pix := t'.pix } ∧ (t.phase = .stream → t' = t)

/-- An accepted press on either line, a saturated one included, blocks both lines for a window: a later press less
than 75 ms on changes nothing, so of two presses that close together at most one changes the counter. Time is taken
to be monotonic (duty E1), and the state at the second press has the counter, the timestamp and the width the first one left
(40_debounce.md R78 P3, 70_reset_and_hazards.md R120; conflicts C1, C4). -/
def Obligations.AcceptedPressBlocksBothLines : Prop :=
  ∀ (up₁ up₂ : Bool) (now₁ now₂ : Timestamp) (s t u v : State),
    exec (buttonEvent up₁ now₁) s = .next t → u.cnt = t.cnt → u.lastTs = t.lastTs → u.tsWidth = t.tsWidth →
    now₁.toNat ≤ now₂.toNat → now₂.toNat - now₁.toNat < 75000 → exec (buttonEvent up₂ now₂) u = .next v →
    (OutsideWindow s.tsWidth now₁ s.lastTs → v = u) ∧ (t.cnt = s.cnt ∨ v.cnt = u.cnt)

/-- After a reset every event with `now` < 75000 is rejected, however many there are (40_debounce.md R77,
70_reset_and_hazards.md R119; D9, log 8). -/
def Obligations.StartUpWindowRejectsEveryEvent : Prop :=
  ∀ (s : State) (r : Ports) (evs rest : List Ports), s.inputs = r :: (evs ++ rest) → r.rst = true →
    (∀ p ∈ evs, p.rst = false ∧ p.now.toNat < 75000) →
    run (evs.length + 1) s =
      .next { s with cnt := 0, lastTs := 0#64, phase := .idle, k := 0, pix := 0#25, inputs := rest }

/-- Reset starts no render, and the first render is always of digit 1: in a run without a further reset either nothing
has been logged and no word sent; or 1 is the one value logged, and the words sent are the first words of the render of
1; or 1 is the first of several values logged, and the words sent begin with the whole render of 1
(70_reset_and_hazards.md R115; D22). -/
def Obligations.FirstRenderAfterResetIsOfDigitOne : Prop :=
  ∀ (n : Nat) (s r t : State), exec .reset s = .next r → (∀ p ∈ r.inputs.take n, p.rst = false) →
    run n r = .next t →
    (t.logs = s.logs ∧ t.sends = s.sends) ∨
    (t.logs = s.logs ++ [1] ∧ ∃ j : Nat, j ≤ 25 ∧ t.sends = s.sends ++ (glyphWords (s.glyphRom.get 1)).take j) ∨
    ∃ (c : Digit) (l : List Digit) (ws : List ColorWord),
      t.logs = s.logs ++ 1 :: c :: l ∧ t.sends = s.sends ++ glyphWords (s.glyphRom.get 1) ++ ws

/-- Under the environment's duty of monotonic time, changing events lie at least 75 ms apart: in a run without a
reset, the timestamp has moved by at least a window for every value logged (40_debounce.md R64, 10_state.md R20,
70_reset_and_hazards.md R117 E1; D29). -/
def Obligations.ChangingEventsAreAWindowApart : Prop :=
  ∀ (n : Nat) (s t : State), MonotoneTime n s.lastTs s → (∀ p ∈ s.inputs.take n, p.rst = false) →
    run n s = .next t →
    s.logs.length ≤ t.logs.length ∧
      s.lastTs.toNat + 75000 * (t.logs.length - s.logs.length) ≤ t.lastTs.toNat

/-! ### Environment and event programs -/

/-- The edge detector reports falling edges only, each with its own line's code, and two at once as two events
(10_state.md R33, 60_exceptions.md R100, 70_reset_and_hazards.md R117 E2; D2, D23). -/
def Obligations.EachFallingEdgeIsOneEventOfItsLine : Prop :=
  ∀ (before after : Levels) (line : LineCode),
    (line ∈ edgeEvents before after ↔
      line = 0b01#2 ∧ before.up = true ∧ after.up = false ∨
      line = 0b10#2 ∧ before.down = true ∧ after.down = false) ∧
    (edgeEvents before after).Nodup

/-- `DRAIN` is 25 word steps after a changing event, which end the render, and no step in `IDLE` (30_encoding.md R62,
40_debounce.md R79; D28). -/
def Obligations.DrainIsTwentyFiveWordsAfterAChange : Prop :=
  (∀ (up : Bool) (now : Timestamp) (s t : State), exec (buttonEvent up now) s = .next t → t.cnt ≠ s.cnt →
    runLine .drain t = execSteps (List.replicate 25 .pxXfer) t ∧
    runLine .drain t = .next { t with
      phase := .idle, k := 0, sends := s.sends ++ glyphWords (s.glyphRom.get t.cnt) }) ∧
  ∀ s : State, s.phase = .idle → runLine .drain s = .next s

/-- An event program that is not refused runs on the machine when its schedule of ports is presented, and ends in the
same state (30_encoding.md R62; D28; logs 3, 14, 16). -/
def Obligations.PresentedScheduleRunsTheProgram : Prop :=
  ∀ (prog : List Line) (s t : State) (rest : List Ports), runProgram prog s = .next t →
    run (programSchedule prog).length { s with inputs := programSchedule prog ++ rest } =
      .next { t with inputs := rest }
end

