-- ==== Sys2Proof/Laws/Decode.lean ====
section
/-! SUPPORT. Small lemmas about the decoder and the encoder. -/

namespace Sys2Proof

/-- Which kind of answer a code has does not depend on the operand. -/
theorem decode_wait_iff (S : StepCode) (now : Timestamp) : decode S now = .wait ↔ decode S 0#64 = .wait := by
  simp only [decode]
  split_ifs <;> simp

theorem decode_unreachable_iff (S : StepCode) (now : Timestamp) :
    decode S now = .unreachable ↔ decode S 0#64 = .unreachable := by
  simp only [decode]
  split_ifs <;> simp

/-- The well-formed codes are those the decoder reads a step from. -/
theorem isStep_iff_decode_step (S : StepCode) (now : Timestamp) :
    StepCode.isStep S = true ↔ ∃ i, decode S now = .step i := by
  have key : ∀ S : StepCode, StepCode.isStep S = true ↔
      ¬ decode S 0#64 = .wait ∧ ¬ decode S 0#64 = .unreachable := by decide
  rw [key S, ← decode_wait_iff S now, ← decode_unreachable_iff S now]
  cases decode S now <;> simp

/-- The time of a well-formed line is the operand that presents it. -/
theorem ofNat_toNat_of_lt {t : Nat} (h : t < 2 ^ 64) : (BitVec.ofNat 64 t).toNat = t := by
  rw [BitVec.toNat_ofNat, Nat.mod_eq_of_lt h]

@[simp] theorem encode_code (i : Instr) : (encode i).code = i.row.2 := by simp [encode, encodeWith]

@[simp] theorem encode_now (i : Instr) : (encode i).now = i.nowOperand := rfl

end Sys2Proof
end

