-- ==== Sys2Proof/Laws/State.lean ====
section
/-! SUPPORT. What each named update does to each field of State, one lemma per field and update; every one is true by
`rfl`, so that no later proof unfolds an update. -/

namespace Sys2Proof.Machine

variable (s : State)

@[simp] theorem State.setLastTs_cnt (now : Timestamp) : (s.setLastTs now).cnt = s.cnt := rfl
@[simp] theorem State.setLastTs_lastTs (now : Timestamp) : (s.setLastTs now).lastTs = sampleNow s.tsWidth now := rfl
@[simp] theorem State.setLastTs_phase (now : Timestamp) : (s.setLastTs now).phase = s.phase := rfl
@[simp] theorem State.setLastTs_k (now : Timestamp) : (s.setLastTs now).k = s.k := rfl
@[simp] theorem State.setLastTs_pix (now : Timestamp) : (s.setLastTs now).pix = s.pix := rfl
@[simp] theorem State.setLastTs_glyphRom (now : Timestamp) : (s.setLastTs now).glyphRom = s.glyphRom := rfl
@[simp] theorem State.setLastTs_tsWidth (now : Timestamp) : (s.setLastTs now).tsWidth = s.tsWidth := rfl
@[simp] theorem State.setLastTs_inputs (now : Timestamp) : (s.setLastTs now).inputs = s.inputs := rfl
@[simp] theorem State.setLastTs_sends (now : Timestamp) : (s.setLastTs now).sends = s.sends := rfl
@[simp] theorem State.setLastTs_logs (now : Timestamp) : (s.setLastTs now).logs = s.logs := rfl

@[simp] theorem State.setCnt_cnt (c : Digit) : (s.setCnt c).cnt = c := rfl
@[simp] theorem State.setCnt_lastTs (c : Digit) : (s.setCnt c).lastTs = s.lastTs := rfl
@[simp] theorem State.setCnt_phase (c : Digit) : (s.setCnt c).phase = s.phase := rfl
@[simp] theorem State.setCnt_k (c : Digit) : (s.setCnt c).k = s.k := rfl
@[simp] theorem State.setCnt_pix (c : Digit) : (s.setCnt c).pix = s.pix := rfl
@[simp] theorem State.setCnt_glyphRom (c : Digit) : (s.setCnt c).glyphRom = s.glyphRom := rfl
@[simp] theorem State.setCnt_tsWidth (c : Digit) : (s.setCnt c).tsWidth = s.tsWidth := rfl
@[simp] theorem State.setCnt_inputs (c : Digit) : (s.setCnt c).inputs = s.inputs := rfl
@[simp] theorem State.setCnt_sends (c : Digit) : (s.setCnt c).sends = s.sends := rfl
@[simp] theorem State.setCnt_logs (c : Digit) : (s.setCnt c).logs = s.logs := rfl

@[simp] theorem State.latchGlyph_cnt (g : Glyph) : (s.latchGlyph g).cnt = s.cnt := rfl
@[simp] theorem State.latchGlyph_lastTs (g : Glyph) : (s.latchGlyph g).lastTs = s.lastTs := rfl
@[simp] theorem State.latchGlyph_phase (g : Glyph) : (s.latchGlyph g).phase = .stream := rfl
@[simp] theorem State.latchGlyph_k (g : Glyph) : (s.latchGlyph g).k = 0 := rfl
@[simp] theorem State.latchGlyph_pix (g : Glyph) : (s.latchGlyph g).pix = g := rfl
@[simp] theorem State.latchGlyph_glyphRom (g : Glyph) : (s.latchGlyph g).glyphRom = s.glyphRom := rfl
@[simp] theorem State.latchGlyph_tsWidth (g : Glyph) : (s.latchGlyph g).tsWidth = s.tsWidth := rfl
@[simp] theorem State.latchGlyph_inputs (g : Glyph) : (s.latchGlyph g).inputs = s.inputs := rfl
@[simp] theorem State.latchGlyph_sends (g : Glyph) : (s.latchGlyph g).sends = s.sends := rfl
@[simp] theorem State.latchGlyph_logs (g : Glyph) : (s.latchGlyph g).logs = s.logs := rfl

@[simp] theorem State.logRecord_cnt (c : Digit) : (s.logRecord c).cnt = s.cnt := rfl
@[simp] theorem State.logRecord_lastTs (c : Digit) : (s.logRecord c).lastTs = s.lastTs := rfl
@[simp] theorem State.logRecord_phase (c : Digit) : (s.logRecord c).phase = s.phase := rfl
@[simp] theorem State.logRecord_k (c : Digit) : (s.logRecord c).k = s.k := rfl
@[simp] theorem State.logRecord_pix (c : Digit) : (s.logRecord c).pix = s.pix := rfl
@[simp] theorem State.logRecord_glyphRom (c : Digit) : (s.logRecord c).glyphRom = s.glyphRom := rfl
@[simp] theorem State.logRecord_tsWidth (c : Digit) : (s.logRecord c).tsWidth = s.tsWidth := rfl
@[simp] theorem State.logRecord_inputs (c : Digit) : (s.logRecord c).inputs = s.inputs := rfl
@[simp] theorem State.logRecord_sends (c : Digit) : (s.logRecord c).sends = s.sends := rfl
@[simp] theorem State.logRecord_logs (c : Digit) : (s.logRecord c).logs = s.logs ++ [c] := rfl

@[simp] theorem State.send_cnt (w : ColorWord) : (s.send w).cnt = s.cnt := rfl
@[simp] theorem State.send_lastTs (w : ColorWord) : (s.send w).lastTs = s.lastTs := rfl
@[simp] theorem State.send_phase (w : ColorWord) : (s.send w).phase = s.phase := rfl
@[simp] theorem State.send_k (w : ColorWord) : (s.send w).k = s.k := rfl
@[simp] theorem State.send_pix (w : ColorWord) : (s.send w).pix = s.pix := rfl
@[simp] theorem State.send_glyphRom (w : ColorWord) : (s.send w).glyphRom = s.glyphRom := rfl
@[simp] theorem State.send_tsWidth (w : ColorWord) : (s.send w).tsWidth = s.tsWidth := rfl
@[simp] theorem State.send_inputs (w : ColorWord) : (s.send w).inputs = s.inputs := rfl
@[simp] theorem State.send_sends (w : ColorWord) : (s.send w).sends = s.sends ++ [w] := rfl
@[simp] theorem State.send_logs (w : ColorWord) : (s.send w).logs = s.logs := rfl

@[simp] theorem State.nextWord_cnt : (s.nextWord).cnt = s.cnt := rfl
@[simp] theorem State.nextWord_lastTs : (s.nextWord).lastTs = s.lastTs := rfl
@[simp] theorem State.nextWord_phase : (s.nextWord).phase = s.phase := rfl
@[simp] theorem State.nextWord_k : (s.nextWord).k = s.k + 1 := rfl
@[simp] theorem State.nextWord_pix : (s.nextWord).pix = s.pix := rfl
@[simp] theorem State.nextWord_glyphRom : (s.nextWord).glyphRom = s.glyphRom := rfl
@[simp] theorem State.nextWord_tsWidth : (s.nextWord).tsWidth = s.tsWidth := rfl
@[simp] theorem State.nextWord_inputs : (s.nextWord).inputs = s.inputs := rfl
@[simp] theorem State.nextWord_sends : (s.nextWord).sends = s.sends := rfl
@[simp] theorem State.nextWord_logs : (s.nextWord).logs = s.logs := rfl

@[simp] theorem State.finishRender_cnt : (s.finishRender).cnt = s.cnt := rfl
@[simp] theorem State.finishRender_lastTs : (s.finishRender).lastTs = s.lastTs := rfl
@[simp] theorem State.finishRender_phase : (s.finishRender).phase = .idle := rfl
@[simp] theorem State.finishRender_k : (s.finishRender).k = 0 := rfl
@[simp] theorem State.finishRender_pix : (s.finishRender).pix = s.pix := rfl
@[simp] theorem State.finishRender_glyphRom : (s.finishRender).glyphRom = s.glyphRom := rfl
@[simp] theorem State.finishRender_tsWidth : (s.finishRender).tsWidth = s.tsWidth := rfl
@[simp] theorem State.finishRender_inputs : (s.finishRender).inputs = s.inputs := rfl
@[simp] theorem State.finishRender_sends : (s.finishRender).sends = s.sends := rfl
@[simp] theorem State.finishRender_logs : (s.finishRender).logs = s.logs := rfl

@[simp] theorem State.clearBlock_cnt : (s.clearBlock).cnt = 0 := rfl
@[simp] theorem State.clearBlock_lastTs : (s.clearBlock).lastTs = lastTsReset := rfl
@[simp] theorem State.clearBlock_phase : (s.clearBlock).phase = .idle := rfl
@[simp] theorem State.clearBlock_k : (s.clearBlock).k = 0 := rfl
@[simp] theorem State.clearBlock_pix : (s.clearBlock).pix = 0#25 := rfl
@[simp] theorem State.clearBlock_glyphRom : (s.clearBlock).glyphRom = s.glyphRom := rfl
@[simp] theorem State.clearBlock_tsWidth : (s.clearBlock).tsWidth = s.tsWidth := rfl
@[simp] theorem State.clearBlock_inputs : (s.clearBlock).inputs = s.inputs := rfl
@[simp] theorem State.clearBlock_sends : (s.clearBlock).sends = s.sends := rfl
@[simp] theorem State.clearBlock_logs : (s.clearBlock).logs = s.logs := rfl

@[simp] theorem State.dropInput_cnt : (s.dropInput).cnt = s.cnt := rfl
@[simp] theorem State.dropInput_lastTs : (s.dropInput).lastTs = s.lastTs := rfl
@[simp] theorem State.dropInput_phase : (s.dropInput).phase = s.phase := rfl
@[simp] theorem State.dropInput_k : (s.dropInput).k = s.k := rfl
@[simp] theorem State.dropInput_pix : (s.dropInput).pix = s.pix := rfl
@[simp] theorem State.dropInput_glyphRom : (s.dropInput).glyphRom = s.glyphRom := rfl
@[simp] theorem State.dropInput_tsWidth : (s.dropInput).tsWidth = s.tsWidth := rfl
@[simp] theorem State.dropInput_inputs : (s.dropInput).inputs = s.inputs.tail := rfl
@[simp] theorem State.dropInput_sends : (s.dropInput).sends = s.sends := rfl
@[simp] theorem State.dropInput_logs : (s.dropInput).logs = s.logs := rfl

end Sys2Proof.Machine
end

