-- ==== Sys2Proof/Laws/Ops.lean ====
section
/-! SUPPORT. One spec lemma per shared operation: what it can do, said once. -/

namespace Sys2Proof.Machine

/-! ### Comparator and counter -/

/-- The widths are at most the port's, so their powers of two divide 2^64. -/
theorem two_pow_tsWidth_dvd (w : TsWidth) : 2 ^ w.val ∣ 2 ^ 64 := Nat.pow_dvd_pow 2 (by omega)

theorem sampleNow_toNat (w : TsWidth) (t : Timestamp) : (sampleNow w t).toNat = t.toNat % 2 ^ w.val := by
  rw [sampleNow, BitVec.toNat_ofNat, Nat.mod_eq_of_lt (lt_of_le_of_lt (Nat.mod_le _ _) t.isLt)]

theorem sampleNow_lt (w : TsWidth) (t : Timestamp) : (sampleNow w t).toNat < 2 ^ w.val := by
  rw [sampleNow_toNat]; exact Nat.mod_lt _ (Nat.two_pow_pos _)

/-- A value of the width is taken whole. -/
theorem sampleNow_of_lt {w : TsWidth} {t : Timestamp} (h : t.toNat < 2 ^ w.val) : sampleNow w t = t :=
  BitVec.eq_of_toNat_eq (by rw [sampleNow_toNat, Nat.mod_eq_of_lt h])

@[simp] theorem sampleNow_sampleNow (w : TsWidth) (t : Timestamp) : sampleNow w (sampleNow w t) = sampleNow w t :=
  sampleNow_of_lt (sampleNow_lt w t)

/-- The elapsed time is the number that brings `last` to `now` modulo the width. -/
theorem elapsedUs_add_last (w : TsWidth) (now last : Timestamp) :
    (elapsedUs w now last + last.toNat) % 2 ^ w.val = now.toNat % 2 ^ w.val := by
  obtain ⟨c, hc⟩ := two_pow_tsWidth_dvd w
  have hl := last.isLt
  rw [elapsedUs, Nat.mod_add_mod, show now.toNat + 2 ^ 64 - last.toNat + last.toNat = now.toNat + 2 ^ 64 by omega, hc,
    Nat.add_mul_mod_self_left]

theorem elapsedUs_lt (w : TsWidth) (now last : Timestamp) : elapsedUs w now last < 2 ^ w.val :=
  Nat.mod_lt _ (Nat.two_pow_pos _)

/-- It is the only such number below 2^width. -/
theorem elapsedUs_eq {w : TsWidth} {now last : Timestamp} {d : Nat} (hd : d < 2 ^ w.val)
    (h : (d + last.toNat) % 2 ^ w.val = now.toNat % 2 ^ w.val) : elapsedUs w now last = d := by
  have h' := (elapsedUs_add_last w now last).trans h.symm
  have := Nat.ModEq.add_right_cancel' last.toNat h'
  rwa [Nat.ModEq, Nat.mod_eq_of_lt (elapsedUs_lt w now last), Nat.mod_eq_of_lt hd] at this

theorem elapsed_toNat (w : TsWidth) (now last : Timestamp) : (elapsed w now last).toNat = elapsedUs w now last := by
  rw [elapsed, sampleNow_toNat, BitVec.toNat_sub, Nat.mod_mod_of_dvd _ (two_pow_tsWidth_dvd w), elapsedUs]
  have := last.isLt
  congr 1
  omega

/-- Only the low bits of both times matter. -/
theorem elapsedUs_congr {w : TsWidth} {now now' last last' : Timestamp} (hn : sampleNow w now = sampleNow w now')
    (hl : sampleNow w last = sampleNow w last') : elapsedUs w now last = elapsedUs w now' last' := by
  have hn' := congrArg BitVec.toNat hn
  have hl' := congrArg BitVec.toNat hl
  rw [sampleNow_toNat, sampleNow_toNat] at hn' hl'
  refine elapsedUs_eq (elapsedUs_lt _ _ _) ?_
  rw [Nat.add_mod, hl', ← Nat.add_mod, elapsedUs_add_last, hn']

/-- Where time has not run backwards at the width, the elapsed time is the true difference. -/
theorem elapsedUs_of_le {w : TsWidth} {now last : Timestamp} (h : last.toNat ≤ (sampleNow w now).toNat) :
    elapsedUs w now last = (sampleNow w now).toNat - last.toNat := by
  have hlt := sampleNow_lt w now
  refine elapsedUs_eq (by omega) ?_
  rw [Nat.sub_add_cancel h, sampleNow_toNat, Nat.mod_mod]

/-- The elapsed time is at most the true difference on the port. -/
theorem elapsedUs_le_sub {w : TsWidth} {now last : Timestamp} (h : last.toNat ≤ now.toNat) :
    elapsedUs w now last ≤ now.toNat - last.toNat := by
  rw [elapsedUs_eq (d := (now.toNat - last.toNat) % 2 ^ w.val) (Nat.mod_lt _ (Nat.two_pow_pos _))
    (by rw [Nat.mod_add_mod, Nat.sub_add_cancel h])]
  exact Nat.mod_le _ _

theorem accept_iff_outsideWindow (w : TsWidth) (now last : Timestamp) :
    accept w now last = true ↔ OutsideWindow w now last := by
  simp [accept, windowCmp, WindowCmp.holds, elapsed_toNat, OutsideWindow, windowUs]

theorem satInc_val_of_lt {c : Digit} (h : c.val < 9) : (satInc c).val = c.val + 1 := by
  revert h; revert c; decide

theorem satInc_of_eq_nine {c : Digit} (h : c.val = 9) : satInc c = c := by
  revert h; revert c; decide

theorem satDec_val_of_pos {c : Digit} (h : 0 < c.val) : (satDec c).val + 1 = c.val := by
  revert h; revert c; decide

theorem satDec_of_eq_zero {c : Digit} (h : c.val = 0) : satDec c = c := by
  revert h; revert c; decide

/-! ### Glyph ROM and color map -/

@[simp] theorem digitBits_toNat (c : Digit) : (digitBits c).toNat = c.val := by
  revert c; decide

theorem romRead_of_lt (rom : Vector Glyph 10) (d : RomAddress) (h : d.toNat < 10) :
    romRead rom d = some (rom.get ⟨d.toNat, h⟩) := by
  simp [romRead, h]

theorem romRead_of_ge (rom : Vector Glyph 10) (d : RomAddress) (h : 10 ≤ d.toNat) : romRead rom d = none := by
  simp [romRead, Nat.not_lt.mpr h]

@[simp] theorem romRead_digitBits (rom : Vector Glyph 10) (c : Digit) :
    romRead rom (digitBits c) = some (rom.get c) := by
  rw [romRead_of_lt _ _ (by simp [c.isLt])]
  congr 2
  exact Fin.ext (digitBits_toNat c)

@[simp] theorem startRender_digitBits (c : Digit) (s : State) :
    startRender (digitBits c) s = s.latchGlyph (s.glyphRom.get c) := by
  simp [startRender]

theorem showDigit_eq (c : Digit) (s : State) :
    showDigit c s = (s.latchGlyph (s.glyphRom.get c)).logRecord c := by
  simp [showDigit]

/-! ### Shared effects -/

theorem takeEvent_of_idle (effect : State → State) {s : State} (h : s.phase = .idle) :
    takeEvent effect s = .next (effect s) := by
  simp [takeEvent, h]

theorem takeEvent_of_stream (effect : State → State) {s : State} (h : s.phase = .stream) :
    takeEvent effect s = .refused .eventWhileStreaming := by
  simp [takeEvent, h]

theorem takeEvent_next {effect : State → State} {s t : State} (h : takeEvent effect s = .next t) :
    s.phase = .idle ∧ t = effect s := by
  cases hp : s.phase <;> simp [takeEvent, hp] at h
  exact ⟨rfl, h.symm⟩

/-- Everything a counting event can do: rejected, saturated, or shown. -/
theorem countEvent_cases (delta : Digit → Digit) (now : Timestamp) (s : State) :
    (¬ OutsideWindow s.tsWidth now s.lastTs ∧ countEvent delta now s = s) ∨
    (OutsideWindow s.tsWidth now s.lastTs ∧ delta s.cnt = s.cnt ∧ countEvent delta now s = s.setLastTs now) ∨
    (OutsideWindow s.tsWidth now s.lastTs ∧ delta s.cnt ≠ s.cnt ∧
      countEvent delta now s =
        (((s.setLastTs now).setCnt (delta s.cnt)).latchGlyph (s.glyphRom.get (delta s.cnt))).logRecord
          (delta s.cnt)) := by
  by_cases hw : OutsideWindow s.tsWidth now s.lastTs
  · have ha := (accept_iff_outsideWindow _ _ _).mpr hw
    by_cases hd : delta s.cnt = s.cnt
    · exact .inr (.inl ⟨hw, hd, by simp [countEvent, ha, hd, renderOnSaturate]⟩)
    · exact .inr (.inr ⟨hw, hd, by simp [countEvent, ha, hd, showDigit_eq]⟩)
  · have ha : accept s.tsWidth now s.lastTs = false := by
      rw [Bool.eq_false_iff]; exact fun h => hw ((accept_iff_outsideWindow _ _ _).mp h)
    exact .inl ⟨hw, by simp [countEvent, ha]⟩

/-! What a counting event and the end of a word transfer never touch. -/

@[simp] theorem countEvent_glyphRom (delta : Digit → Digit) (now : Timestamp) (s : State) :
    (countEvent delta now s).glyphRom = s.glyphRom := by
  rcases countEvent_cases delta now s with ⟨_, e⟩ | ⟨_, _, e⟩ | ⟨_, _, e⟩ <;> simp [e]

@[simp] theorem countEvent_tsWidth (delta : Digit → Digit) (now : Timestamp) (s : State) :
    (countEvent delta now s).tsWidth = s.tsWidth := by
  rcases countEvent_cases delta now s with ⟨_, e⟩ | ⟨_, _, e⟩ | ⟨_, _, e⟩ <;> simp [e]

@[simp] theorem countEvent_inputs (delta : Digit → Digit) (now : Timestamp) (s : State) :
    (countEvent delta now s).inputs = s.inputs := by
  rcases countEvent_cases delta now s with ⟨_, e⟩ | ⟨_, _, e⟩ | ⟨_, _, e⟩ <;> simp [e]

@[simp] theorem countEvent_sends (delta : Digit → Digit) (now : Timestamp) (s : State) :
    (countEvent delta now s).sends = s.sends := by
  rcases countEvent_cases delta now s with ⟨_, e⟩ | ⟨_, _, e⟩ | ⟨_, _, e⟩ <;> simp [e]

/-- Moving the stream on writes `PHASE` and `K` only. -/
theorem advanceStream_frame (s : State) :
    advanceStream s = { s with phase := (advanceStream s).phase, k := (advanceStream s).k } := by
  unfold advanceStream
  split_ifs <;> rfl

theorem advanceStream_of_last {s : State} (h : s.k = 24) : advanceStream s = s.finishRender := by
  simp [advanceStream, h]

theorem advanceStream_of_lt {s : State} (h : s.k.val < 24) : advanceStream s = s.nextWord := by
  have : s.k ≠ 24 := fun e => by simp [e] at h
  simp [advanceStream, this]

theorem nextWord_k_val {s : State} (h : s.k.val < 24) : s.nextWord.k.val = s.k.val + 1 := by
  have : s.k + 1 = ⟨s.k.val + 1, by omega⟩ := by
    apply Fin.ext
    rw [Fin.val_add]
    exact Nat.mod_eq_of_lt (by simp; omega)
  simp [this]

end Sys2Proof.Machine
end

