-- ==== Sys2Proof/Laws/PerInstr.lean ====
section
/-! SUPPORT. A statement about every instruction as syntax, one lemma per constructor. -/

namespace Sys2Proof.Laws.TableRow

/-- The encoding of the step agrees with its row of the opcode table under the row's mask, and is a well-formed
code. -/
def Statement (i : Instr) : Prop :=
  (encode i).code &&& i.row.1 = i.row.2 ∧ StepCode.isStep (encode i).code = true

theorem reset : Statement .reset := by simp only [Statement, encode_code, Instr.row]; decide
theorem evUp (now : Timestamp) : Statement (.evUp now) := by simp only [Statement, encode_code, Instr.row]; decide
theorem evDown (now : Timestamp) : Statement (.evDown now) := by simp only [Statement, encode_code, Instr.row]; decide
theorem evNop00 (now : Timestamp) : Statement (.evNop00 now) := by simp only [Statement, encode_code, Instr.row]; decide
theorem evNop11 (now : Timestamp) : Statement (.evNop11 now) := by simp only [Statement, encode_code, Instr.row]; decide
theorem pxXfer : Statement .pxXfer := by simp only [Statement, encode_code, Instr.row]; decide

end Sys2Proof.Laws.TableRow
end

