-- ==== Sys2Proof/Laws/Step.lean ====
section
/-! SUPPORT. What one step can do, said once: the decoded step in terms of the ports and the phase, the equation of
`step` in each case, and its inversion. -/

namespace Sys2Proof.Machine

/-- The decoded step of a presented line (30_encoding.md R56). -/
def lineEvent (line : LineCode) (now : Timestamp) : Instr :=
  if line = 0b01#2 then .evUp now
  else if line = 0b10#2 then .evDown now
  else if line = 0b00#2 then .evNop00 now
  else .evNop11 now

@[simp] theorem State.ports_dropInput (s : State) : s.dropInput.ports = s.inputs.tail.headD Ports.quiet := rfl

@[simp] theorem evReady_of_idle {s : State} (h : s.phase = .idle) : s.evReady = true := by simp [State.evReady, h]
@[simp] theorem evReady_of_stream {s : State} (h : s.phase = .stream) : s.evReady = false := by
  simp [State.evReady, h]
@[simp] theorem pxValid_of_idle {s : State} (h : s.phase = .idle) : s.pxValid = false := by simp [State.pxValid, h]
@[simp] theorem pxValid_of_stream {s : State} (h : s.phase = .stream) : s.pxValid = true := by
  simp [State.pxValid, h]

theorem decode_of_rst (e x : Bool) (line : LineCode) (now : Timestamp) :
    decode (BitVec.ofBool true ++ BitVec.ofBool e ++ BitVec.ofBool x ++ line) now = .step .reset := by
  have h : ∀ (e x : Bool) (line : LineCode),
      (BitVec.ofBool true ++ BitVec.ofBool e ++ BitVec.ofBool x ++ line) &&& 0b10000#5 = 0b10000#5 := by decide
  exact if_pos (h e x line)

theorem decode_of_event (line : LineCode) (now : Timestamp) :
    decode (BitVec.ofBool false ++ BitVec.ofBool true ++ BitVec.ofBool false ++ line) now =
      .step (lineEvent line now) := by
  have h : ∀ line : LineCode, line = 0 ∨ line = 1 ∨ line = 2 ∨ line = 3 := by decide
  rcases h line with rfl | rfl | rfl | rfl <;> rfl

theorem decode_of_word (line : LineCode) (now : Timestamp) :
    decode (BitVec.ofBool false ++ BitVec.ofBool false ++ BitVec.ofBool true ++ line) now = .step .pxXfer := by
  have h : ∀ line : LineCode, line = 0 ∨ line = 1 ∨ line = 2 ∨ line = 3 := by decide
  rcases h line with rfl | rfl | rfl | rfl <;> rfl

theorem decode_of_none (line : LineCode) (now : Timestamp) :
    decode (BitVec.ofBool false ++ BitVec.ofBool false ++ BitVec.ofBool false ++ line) now = .wait := by
  have h : ∀ line : LineCode, line = 0 ∨ line = 1 ∨ line = 2 ∨ line = 3 := by decide
  rcases h line with rfl | rfl | rfl | rfl <;> rfl

/-! ### What is fetched -/

theorem fetch_of_rst {s : State} (h : s.ports.rst = true) : fetch s = .step .reset := by
  rw [fetch, stepCode, h]; exact decode_of_rst _ _ _ _

theorem fetch_of_event {s : State} (hr : s.ports.rst = false) (hp : s.phase = .idle) (he : s.ports.evValid = true) :
    fetch s = .step (lineEvent s.ports.evLine s.ports.now) := by
  rw [fetch, stepCode, hr, he, evReady_of_idle hp, pxValid_of_idle hp]; exact decode_of_event _ _

theorem fetch_of_idle_quiet {s : State} (hr : s.ports.rst = false) (hp : s.phase = .idle)
    (he : s.ports.evValid = false) : fetch s = .wait := by
  rw [fetch, stepCode, hr, he, evReady_of_idle hp, pxValid_of_idle hp]; exact decode_of_none _ _

theorem fetch_of_word {s : State} (hr : s.ports.rst = false) (hp : s.phase = .stream)
    (hx : s.ports.pxReady = true) : fetch s = .step .pxXfer := by
  rw [fetch, stepCode, hr, hx, evReady_of_stream hp, pxValid_of_stream hp, Bool.and_false]; exact decode_of_word _ _

theorem fetch_of_stall {s : State} (hr : s.ports.rst = false) (hp : s.phase = .stream)
    (hx : s.ports.pxReady = false) : fetch s = .wait := by
  rw [fetch, stepCode, hr, hx, evReady_of_stream hp, pxValid_of_stream hp, Bool.and_false]; exact decode_of_none _ _

/-! ### The step in each case -/

theorem step_of_rst {s : State} (h : s.ports.rst = true) : step s = .next s.dropInput.clearBlock := by
  simp [step, fetch_of_rst h, exec, execReset]

theorem step_of_up {s : State} (hr : s.ports.rst = false) (hp : s.phase = .idle) (he : s.ports.evValid = true)
    (hl : s.ports.evLine = 0b01#2) : step s = .next (countEvent satInc s.ports.now s.dropInput) := by
  have hp' : s.dropInput.phase = .idle := hp
  simp [step, fetch_of_event hr hp he, hl, lineEvent, exec, execEvUp, takeEvent_of_idle _ hp']

theorem step_of_down {s : State} (hr : s.ports.rst = false) (hp : s.phase = .idle) (he : s.ports.evValid = true)
    (hl : s.ports.evLine = 0b10#2) : step s = .next (countEvent satDec s.ports.now s.dropInput) := by
  have hp' : s.dropInput.phase = .idle := hp
  simp [step, fetch_of_event hr hp he, hl, lineEvent, exec, execEvDown, takeEvent_of_idle _ hp']

theorem step_of_unknown {s : State} (hr : s.ports.rst = false) (hp : s.phase = .idle) (he : s.ports.evValid = true)
    (hu : s.ports.evLine ≠ 0b01#2) (hd : s.ports.evLine ≠ 0b10#2) : step s = .next s.dropInput := by
  have hp' : s.dropInput.phase = .idle := hp
  by_cases h0 : s.ports.evLine = 0b00#2
  · simp [step, fetch_of_event hr hp he, lineEvent, h0, exec, execEvNop00, takeEvent_of_idle _ hp', unknownLineEvent]
  · simp [step, fetch_of_event hr hp he, lineEvent, hu, hd, h0, exec, execEvNop11, takeEvent_of_idle _ hp',
      unknownLineEvent]

theorem step_of_idle_quiet {s : State} (hr : s.ports.rst = false) (hp : s.phase = .idle)
    (he : s.ports.evValid = false) : step s = .next s.dropInput := by
  simp [step, fetch_of_idle_quiet hr hp he]

theorem step_of_word {s : State} (hr : s.ports.rst = false) (hp : s.phase = .stream) (hx : s.ports.pxReady = true) :
    step s = .next (advanceStream (s.dropInput.send s.streamWord)) := by
  have hp' : s.dropInput.phase = .stream := hp
  simp only [step, fetch_of_word hr hp hx, exec, execPxXfer, hp']
  rfl

theorem step_of_stall {s : State} (hr : s.ports.rst = false) (hp : s.phase = .stream)
    (hx : s.ports.pxReady = false) : step s = .next s.dropInput := by
  simp [step, fetch_of_stall hr hp hx]

/-- Everything one step can do, with the ports and the phase in which it does it. -/
theorem step_cases {s t : State} (h : step s = .next t) :
    (s.ports.rst = true ∧ t = s.dropInput.clearBlock) ∨
    (s.ports.rst = false ∧ s.phase = .idle ∧ s.ports.evValid = true ∧ s.ports.evLine = 0b01#2 ∧
      t = countEvent satInc s.ports.now s.dropInput) ∨
    (s.ports.rst = false ∧ s.phase = .idle ∧ s.ports.evValid = true ∧ s.ports.evLine = 0b10#2 ∧
      t = countEvent satDec s.ports.now s.dropInput) ∨
    (s.ports.rst = false ∧ s.phase = .idle ∧ s.ports.evValid = true ∧ s.ports.evLine ≠ 0b01#2 ∧
      s.ports.evLine ≠ 0b10#2 ∧ t = s.dropInput) ∨
    (s.ports.rst = false ∧ s.phase = .idle ∧ s.ports.evValid = false ∧ t = s.dropInput) ∨
    (s.ports.rst = false ∧ s.phase = .stream ∧ s.ports.pxReady = true ∧
      t = advanceStream (s.dropInput.send s.streamWord)) ∨
    (s.ports.rst = false ∧ s.phase = .stream ∧ s.ports.pxReady = false ∧ t = s.dropInput) := by
  have next_inj : ∀ {u : State}, step s = .next u → t = u := fun hu => by
    rw [hu] at h; injection h with h; exact h.symm
  cases hr : s.ports.rst with
  | true => exact .inl ⟨rfl, next_inj (step_of_rst hr)⟩
  | false =>
    refine .inr ?_
    cases hp : s.phase with
    | idle =>
      cases he : s.ports.evValid with
      | false => exact .inr (.inr (.inr (.inl ⟨rfl, rfl, rfl, next_inj (step_of_idle_quiet hr hp he)⟩)))
      | true =>
        by_cases hu : s.ports.evLine = 0b01#2
        · exact .inl ⟨rfl, rfl, rfl, hu, next_inj (step_of_up hr hp he hu)⟩
        · by_cases hd : s.ports.evLine = 0b10#2
          · exact .inr (.inl ⟨rfl, rfl, rfl, hd, next_inj (step_of_down hr hp he hd)⟩)
          · exact .inr (.inr (.inl ⟨rfl, rfl, rfl, hu, hd, next_inj (step_of_unknown hr hp he hu hd)⟩))
    | stream =>
      cases hx : s.ports.pxReady with
      | true => exact .inr (.inr (.inr (.inr (.inl ⟨rfl, rfl, rfl, next_inj (step_of_word hr hp hx)⟩))))
      | false => exact .inr (.inr (.inr (.inr (.inr ⟨rfl, rfl, rfl, next_inj (step_of_stall hr hp hx)⟩))))

/-- What a step other than a reset can do in `IDLE`: pass, or count on a known line. -/
theorem step_idle_cases {s t : State} (h : step s = .next t) (hr : s.ports.rst = false) (hp : s.phase = .idle) :
    t = s.dropInput ∨
    (s.takesEvent = true ∧ s.ports.evLine = 0b01#2 ∧ t = countEvent satInc s.ports.now s.dropInput) ∨
    (s.takesEvent = true ∧ s.ports.evLine = 0b10#2 ∧ t = countEvent satDec s.ports.now s.dropInput) := by
  rcases step_cases h with ⟨hr', _⟩ | ⟨_, _, he, hl, e⟩ | ⟨_, _, he, hl, e⟩ | ⟨_, _, _, _, _, e⟩ | ⟨_, _, _, e⟩ |
    ⟨_, hp', _⟩ | ⟨_, hp', _⟩
  · rw [hr] at hr'; cases hr'
  · exact .inr (.inl ⟨by simp [State.takesEvent, he, hp, hr], hl, e⟩)
  · exact .inr (.inr ⟨by simp [State.takesEvent, he, hp, hr], hl, e⟩)
  · exact .inl e
  · exact .inl e
  · rw [hp] at hp'; cases hp'
  · rw [hp] at hp'; cases hp'

/-- What a step other than a reset can do in `STREAM`: pass, or transfer the due word. -/
theorem step_stream_cases {s t : State} (h : step s = .next t) (hr : s.ports.rst = false) (hp : s.phase = .stream) :
    (s.ports.pxReady = false ∧ t = s.dropInput) ∨
    (s.ports.pxReady = true ∧ t = advanceStream (s.dropInput.send s.streamWord)) := by
  rcases step_cases h with ⟨hr', _⟩ | ⟨_, hp', _⟩ | ⟨_, hp', _⟩ | ⟨_, hp', _⟩ | ⟨_, hp', _⟩ | ⟨_, _, hx, e⟩ |
    ⟨_, _, hx, e⟩
  · rw [hr] at hr'; cases hr'
  iterate 4 rw [hp] at hp'; cases hp'
  · exact .inr ⟨hx, e⟩
  · exact .inl ⟨hx, e⟩

/-! ### Runs -/

theorem run_zero (s : State) : run 0 s = .next s := rfl

theorem run_succ_of_step {s t : State} (n : Nat) (h : step s = .next t) : run (n + 1) s = run n t := by
  have h' : core.step s = .next t := h
  simp only [run, Host.Core.run, h']
  rfl

theorem run_succ_next {s u : State} {n : Nat} (h : run (n + 1) s = .next u) :
    ∃ t, step s = .next t ∧ run n t = .next u := by
  cases hs : step s with
  | next t => exact ⟨t, rfl, (run_succ_of_step n hs) ▸ h⟩
  | fault f => exact nomatch f
  | refused r =>
    have h' : core.step s = .refused r := hs
    simp only [run, Host.Core.run, h'] at h
    cases h

/-- A run goes on from where a shorter one ended. -/
theorem run_add : ∀ (m n : Nat) {s t : State}, run m s = .next t → run (m + n) s = run n t := by
  intro m
  induction m with
  | zero =>
    intro n s t h
    rw [run_zero] at h
    injection h with h
    rw [h, Nat.zero_add]
  | succ m ih =>
    intro n s t h
    obtain ⟨u, h1, h2⟩ := run_succ_next h
    rw [show m + 1 + n = (m + n) + 1 by omega, run_succ_of_step _ h1, ih n h2]

end Sys2Proof.Machine
end

