-- ==== Sys2Proof/Tests/Slice0.lean ====
section
/-! SUPPORT. Tests: words and vectors of the spec (30_encoding.md, 95_test_vectors.md), the smoke test of
WellFormed.lean, and for each statement a concrete case that meets its hypotheses. Expected values are the spec's. -/

namespace Sys2Proof.Tests

open Sys2Proof Sys2Proof.Machine

/-! ### Helpers -/

/-- The fixture `FIX1` of 95_test_vectors.md: only bit `d` of entry `d` is set. Not the hardware's glyphs. -/
def fix1 : Vector Glyph 10 := #v[1#25, 2#25, 4#25, 8#25, 16#25, 32#25, 64#25, 128#25, 256#25, 512#25]

def idleAt (c : Digit) (last : Timestamp) : State :=
  { State.reset with glyphRom := fix1, cnt := c, lastTs := last }

def streamAt (c : Digit) (k : WordIndex) (g : Glyph) : State :=
  { State.reset with glyphRom := fix1, cnt := c, phase := .stream, k := k, pix := g }

/-- What a field is after an outcome that is a next state. -/
def after {α : Type} (o : Host.Outcome State Fault Refusal) (f : State → α) : Option α :=
  match o with
  | .next s => some (f s)
  | .fault _ => none
  | .refused _ => none

def refusal (o : Host.Outcome State Fault Refusal) : Option Refusal :=
  match o with
  | .refused r => some r
  | .next _ => none
  | .fault _ => none

/-- What an event step shows of itself. -/
structure Shown where
  cnt : Digit
  lastTs : Timestamp
  phase : Phase
  k : WordIndex
  logs : List Digit
deriving DecidableEq, Repr

def shown (s : State) : Shown := ⟨s.cnt, s.lastTs, s.phase, s.k, s.logs⟩

/-! ### Well-formedness (R59, R57) -/

theorem test_code_011xx_is_ill_formed : StepCode.isStep 0b01100#5 = false := by decide
theorem test_code_000xx_is_ill_formed : StepCode.isStep 0b00011#5 = false := by decide
theorem test_code_of_a_step_is_well_formed : StepCode.isStep 0b00111#5 = true := by decide
theorem test_line_time_too_large_is_ill_formed : Line.wellFormed (.pressUp (2 ^ 64)) = false := by decide
theorem test_line_largest_time_is_well_formed : Line.wellFormed (.up (2 ^ 64 - 1)) = true := by decide

/-! ### Decoding: the words of R58, bit by bit, and vectors DEC-1 to DEC-7, RS-2, RS-3 -/

theorem test_decode_reset : decode 0b11001#5 7#64 = .step .reset ∧ decode 0b10100#5 7#64 = .step .reset := by decide
theorem test_decode_evUp : decode 0b01001#5 0x186A0#64 = .step (.evUp 100000#64) := by decide
theorem test_decode_evDown : decode 0b01010#5 0x30D40#64 = .step (.evDown 200000#64) := by decide
theorem test_decode_evNop00 : decode 0b01000#5 7#64 = .step (.evNop00 7#64) := by decide
theorem test_decode_evNop11 : decode 0b01011#5 7#64 = .step (.evNop11 7#64) := by decide
theorem test_decode_pxXfer : decode 0b00111#5 7#64 = .step .pxXfer ∧ decode 0b00100#5 7#64 = .step .pxXfer := by decide
theorem test_decode_011xx : decode 0b01100#5 7#64 = .unreachable ∧ decode 0b01111#5 7#64 = .unreachable := by decide
theorem test_decode_000xx : decode 0b00000#5 7#64 = .wait ∧ decode 0b00011#5 7#64 = .wait := by decide
theorem test_decode_too_wide_word : decodeTableWord 8 0b101001 = none := by decide

/-! ### Comparator, counter, ROM and color (95_test_vectors.md 2.1, 2.2, 2.4, 2.5) -/

theorem test_accept_boundary :
    accept 64 74999#64 0#64 = false ∧ accept 64 75000#64 0#64 = true ∧ accept 64 174999#64 100000#64 = false ∧
    accept 64 175000#64 100000#64 = true ∧ accept 64 0#64 0#64 = false := by decide
theorem test_accept_wrapped :
    accept 64 999999#64 1000000#64 = true ∧ accept 64 65000#64 (BitVec.ofNat 64 (2 ^ 64 - 10000)) = true ∧
    accept 64 64999#64 (BitVec.ofNat 64 (2 ^ 64 - 10000)) = false := by decide
/-- A 32-bit time source (91_not_in_source.md N5): CMP-8 and CMP-9 at the width 32, and `now` taken at 32 bits. -/
theorem test_accept_wraps_at_32_bits :
    accept 32 65000#64 (BitVec.ofNat 64 (2 ^ 32 - 10000)) = true ∧
    accept 32 64999#64 (BitVec.ofNat 64 (2 ^ 32 - 10000)) = false ∧
    accept 32 (BitVec.ofNat 64 (2 ^ 32 + 74999)) 0#64 = false := by decide
theorem test_satInc : (List.finRange 10).map satInc = [1, 2, 3, 4, 5, 6, 7, 8, 9, 9] := by decide
theorem test_satDec : (List.finRange 10).map satDec = [0, 0, 1, 2, 3, 4, 5, 6, 7, 8] := by decide
theorem test_romRead : romRead fix1 1#4 = some 0x0000002#25 ∧ romRead fix1 9#4 = some 0x0000200#25 ∧
    romRead fix1 10#4 = none ∧ romRead fix1 15#4 = none := by decide
theorem test_color : color false = 0x00000000#32 ∧ color true = 0x00190000#32 := by decide
theorem test_redOn_is_the_truncated_product : redOn.toNat = 255 / 10 := by decide
theorem test_pixelIndex :
    (streamAt 1 0 0#25).pixelIndex = gridPosition 4 4 ∧ (streamAt 1 12 0#25).pixelIndex = gridPosition 2 2 ∧
    (streamAt 1 23 0#25).pixelIndex = gridPosition 0 1 ∧ (streamAt 1 24 0#25).pixelIndex = gridPosition 0 0 := by decide

/-! ### Steps (2.3, 2.6, 2.7) -/

/-- DB-3. -/
theorem test_evUp_shows : after (exec (.evUp 1075000#64) (idleAt 3 1000000#64)) shown =
    some ⟨4, 1075000#64, .stream, 0, [4]⟩ := by decide
/-- DB-6: saturated, and DB-7: rejected before saturation. -/
theorem test_evUp_at_nine :
    after (exec (.evUp 200000#64) (idleAt 9 0#64)) shown = some ⟨9, 200000#64, .idle, 0, []⟩ ∧
    after (exec (.evUp 70000#64) (idleAt 9 0#64)) shown = some ⟨9, 0#64, .idle, 0, []⟩ := by decide
/-- The timestamp of a 32-bit source, stored at its own width. -/
theorem test_evUp_stamps_32_bits :
    after (exec (.evUp (BitVec.ofNat 64 (2 ^ 32 + 75000))) { idleAt 9 0#64 with tsWidth := 32 }) shown =
      some ⟨9, 75000#64, .idle, 0, []⟩ := by decide
/-- DB-8. -/
theorem test_evDown_shows : after (exec (.evDown 600000#64) (idleAt 1 500000#64)) (fun s => (shown s, s.pix)) =
    some (⟨0, 600000#64, .stream, 0, [0]⟩, 0x0000001#25) := by decide
/-- DB-9, and the shared window of WE-3. -/
theorem test_evDown_saturated_and_rejected :
    after (exec (.evDown 600000#64) (idleAt 0 500000#64)) shown = some ⟨0, 600000#64, .idle, 0, []⟩ ∧
    after (exec (.evDown 2010000#64) (idleAt 4 2000000#64)) shown = some ⟨4, 2000000#64, .idle, 0, []⟩ := by decide
/-- DB-11. -/
theorem test_evNop00 : after (exec (.evNop00 900000#64) (idleAt 5 0#64)) id = some (idleAt 5 0#64) := by decide
/-- DB-12. -/
theorem test_evNop11 : after (exec (.evNop11 900000#64) (idleAt 5 0#64)) id = some (idleAt 5 0#64) := by decide
/-- PX-1, PX-2. -/
theorem test_pxXfer_sends :
    after (exec .pxXfer (streamAt 1 0 2#25)) (fun s => (s.phase, s.k, s.sends)) = some (.stream, 1, [0x00000000#32]) ∧
    after (exec .pxXfer (streamAt 1 23 2#25)) (fun s => (s.phase, s.k, s.sends)) =
      some (.stream, 24, [0x00190000#32]) := by decide
/-- PX-3. -/
theorem test_pxXfer_ends_the_render :
    after (exec .pxXfer (streamAt 1 24 2#25)) (fun s => (s.phase, s.k, s.pix, s.sends)) =
      some (.idle, 0, 2#25, [0x00000000#32]) := by decide
/-- RS-3. -/
theorem test_reset : after (exec .reset { streamAt 7 12 5#25 with lastTs := 9#64, sends := [0#32] }) id =
    some { idleAt 0 0#64 with sends := [0#32] } := by decide
/-- RS-2: reset wins over an offered event. -/
theorem test_reset_wins :
    after (step { idleAt 3 0#64 with inputs := [⟨true, true, 0b01#2, 100000#64, true⟩] }) id =
      some (idleAt 0 0#64) := by decide
theorem test_placed_words_run_from_reset :
    after (step (State.reset.withFetchWord 8 0b00100)) (fun s => (s.phase, s.k, s.sends)) =
      some (.stream, 1, [0x00000000#32]) ∧
    after (step (State.reset.withFetchWord 8 0b01010)) shown = some ⟨0, 0#64, .idle, 0, []⟩ := by decide
/-- 30_encoding.md R62: an illegal line refuses the program. -/
theorem test_program_with_illegal_line :
    refusal (runProgram [.reset, .px] (idleAt 0 0#64)) = some .wordWhileIdle ∧
    refusal (runProgram [.up 100000, .up 200000] (idleAt 0 0#64)) = some .eventWhileStreaming := by decide

/-! ### Cases that meet the hypotheses of the statements -/

/-- Port values: an event of line `l` at `now`, and a word offer. -/
def ev (l : LineCode) (now : Timestamp) : Ports := ⟨false, true, l, now, false⟩
def word : Ports := ⟨false, false, 0b00#2, 0#64, true⟩
def rstPorts : Ports := ⟨true, false, 0b00#2, 0#64, false⟩

/-- A changing event and its result, used by the statements about renders. -/
def before1 : State := idleAt 0 0#64
def changed1 : State :=
  { before1 with cnt := 1, lastTs := 100000#64, phase := .stream, k := 0, pix := 2#25, logs := [1] }

theorem changed1_is_the_result : exec (buttonEvent true 100000#64) before1 = .next changed1 := by rfl
theorem changed1_changes : changed1.cnt ≠ before1.cnt := by decide

theorem witness_DecodeAndEncodeAgree :
    decodeWord ⟨0b10110#5, 5#64⟩ = .step .reset ∧ decodeWord ⟨0b01011#5, 5#64⟩ = .step (.evNop11 5#64) ∧
    (Instr.evNop11 5#64).isEvent = true := by decide

theorem witness_DecodeTableCoversEveryCode :
    [0b10000#5, 0b11111#5].map (decode · 5#64) = [.step .reset, .step .reset] ∧
    [0b01100#5, 0b01111#5].map (decode · 5#64) = [.unreachable, .unreachable] ∧
    [0b00100#5, 0b00111#5].map (decode · 5#64) = [.step .pxXfer, .step .pxXfer] ∧
    [0b00000#5, 0b00011#5].map (decode · 5#64) = [.wait, .wait] := by decide

theorem witness_StepRunsTheDecodedStep :
    let s := { idleAt 3 0#64 with inputs := [ev 0b01#2 100000#64, word] }
    s.inputs = ev 0b01#2 100000#64 :: [word] ∧
      decode (stepCode (ev 0b01#2 100000#64) s) 100000#64 = .step (.evUp 100000#64) := by decide

theorem witness_WithoutATransferTheBlockWaits :
    let s := { streamAt 3 4 0#25 with inputs := [ev 0b01#2 100000#64] }
    let u := { idleAt 3 0#64 with inputs := [word] }
    s.ports.rst = false ∧ s.takesEvent = false ∧ s.takesWord = false ∧
    u.ports.rst = false ∧ u.takesEvent = false ∧ u.takesWord = false ∧ (idleAt 3 0#64).inputs = [] := by decide

theorem witness_NoStepCanFail :
    (Instr.evDown 0#64).isEvent = true ∧ (idleAt 3 0#64).phase = .idle ∧ (streamAt 3 4 0#25).phase = .stream := by
  decide

theorem witness_TransfersHappenExactlyWhenOffered :
    State.takesEvent { idleAt 3 0#64 with inputs := [ev 0b10#2 1#64] } = true ∧
    State.takesWord { streamAt 3 4 0#25 with inputs := [word] } = true := by decide

theorem witness_ResetWinsOverEveryOtherStep :
    State.inputs { streamAt 3 4 0#25 with inputs := [⟨true, true, 0b01#2, 1#64, true⟩] } =
      ⟨true, true, 0b01#2, 1#64, true⟩ :: [] ∧ (⟨true, true, 0b01#2, 1#64, true⟩ : Ports).rst = true := by decide

theorem witness_PortsOutsideTransfersHaveNoEffect :
    let p : Ports := ⟨false, true, 0b01#2, 1#64, true⟩
    let q : Ports := ⟨false, false, 0b10#2, 2#64, true⟩
    let p' : Ports := ⟨false, true, 0b01#2, 1#64, true⟩
    let q' : Ports := ⟨false, true, 0b01#2, 1#64, false⟩
    (p.rst = q.rst ∧ p.pxReady = q.pxReady ∧ (streamAt 3 4 0#25).phase = .stream) ∧
    (p'.rst = q'.rst ∧ p'.evValid = q'.evValid ∧ p'.evLine = q'.evLine ∧ p'.now = q'.now ∧
      (idleAt 3 0#64).phase = .idle) := by decide

theorem witness_PlacedWordIsRunNext :
    decodeTableWord 8 0b01001 = some (.evUp 0#64) ∧ decodeTableWord 8 0b00100 = some .pxXfer ∧
    decodeTableWord 8 0b10000 = some .reset := by decide

theorem witness_EitherLineIsAcceptedFromTheWindowOn :
    (idleAt 9 0#64).phase = .idle ∧ accept 64 75000#64 (idleAt 9 0#64).lastTs = true ∧
    accept 64 74999#64 (idleAt 9 0#64).lastTs = false := by decide

theorem witness_ElapsedWrapsAtTheTimestampWidth :
    (5#64).toNat < 2 ^ (32 : TsWidth).val ∧ (5#64).toNat ≤ (5#64).toNat ∧
    (BitVec.ofNat 64 (2 ^ 32 - 75000)).toNat < 2 ^ (32 : TsWidth).val ∧
    (0#64).toNat < (BitVec.ofNat 64 (2 ^ 32 - 75000)).toNat ∧
    (BitVec.ofNat 64 (2 ^ 32 - 75000)).toNat - (0#64).toNat ≤ 2 ^ (32 : TsWidth).val - 75000 := by decide

theorem witness_NowIsTakenAtTheTimestampWidth :
    (64 : TsWidth).val = 64 ∧ (BitVec.ofNat 64 (2 ^ 32 - 1)).toNat < 2 ^ (32 : TsWidth).val ∧
    (BitVec.ofNat 64 (2 ^ 32 + 5)).toNat % 2 ^ (State.tsWidth { idleAt 9 0#64 with tsWidth := 32 }).val =
      (5#64).toNat % 2 ^ (State.tsWidth { idleAt 9 0#64 with tsWidth := 32 }).val := by decide

theorem witness_EvUpCountsShowsAndStamps :
    (idleAt 8 0#64).phase = .idle ∧ (75000#64).toNat = (75000#64).toNat % 2 ^ (idleAt 8 0#64).tsWidth.val ∧ ¬ OutsideWindow 64 74999#64 (idleAt 8 0#64).lastTs ∧
    OutsideWindow 64 75000#64 (idleAt 9 0#64).lastTs ∧ (idleAt 9 0#64).cnt = 9 ∧
    OutsideWindow 64 75000#64 (idleAt 8 0#64).lastTs ∧ (9 : Digit).val = (idleAt 8 0#64).cnt.val + 1 := by decide

theorem witness_EvDownCountsShowsAndStamps :
    (idleAt 1 0#64).phase = .idle ∧ (75000#64).toNat = (75000#64).toNat % 2 ^ (idleAt 1 0#64).tsWidth.val ∧ ¬ OutsideWindow 64 74999#64 (idleAt 1 0#64).lastTs ∧
    OutsideWindow 64 75000#64 (idleAt 0 0#64).lastTs ∧ (idleAt 0 0#64).cnt = 0 ∧
    OutsideWindow 64 75000#64 (idleAt 1 0#64).lastTs ∧ (0 : Digit).val + 1 = (idleAt 1 0#64).cnt.val := by decide

theorem witness_UnknownLineEventsChangeNothing : (idleAt 5 0#64).phase = .idle := by decide

theorem witness_PxXferSendsTheDueWord :
    let s := streamAt 1 23 2#25
    let u := streamAt 1 24 2#25
    (s.phase = .stream ∧ (24 : WordIndex).val = s.k.val + 1 ∧
      0x00190000#32 = 0x00#8 ++ (if s.pix.getLsbD (24 - s.k.val) then redOn else 0x00#8) ++ 0x00#8 ++ 0x00#8) ∧
    (u.phase = .stream ∧ u.k.val = 24 ∧
      0x00000000#32 = 0x00#8 ++ (if u.pix.getLsbD (24 - u.k.val) then redOn else 0x00#8) ++ 0x00#8 ++ 0x00#8) := by
  decide

theorem witness_StepsOutOfPhaseAreRefused :
    (Instr.evUp 0#64).isEvent = true ∧ (streamAt 1 0 0#25).phase = .stream ∧ (idleAt 1 0#64).phase = .idle := by decide

theorem witness_RomReadSelectsAnEntryOrIsInvalid :
    (9#4).toNat = (9 : Digit).val ∧ 10 ≤ (10#4).toNat ∧ 10 ≤ (15#4).toNat := by decide

theorem witness_GlyphRomNeverChanges : run 1 { changed1 with inputs := [rstPorts] } =
    .next { idleAt 0 0#64 with logs := [1] } := by rfl

/-- One step that changes the counter, one that sends a lit word and one that only moves `LAST_TS`. -/
theorem witness_step_changes : step { before1 with inputs := [ev 0b01#2 100000#64] } = .next changed1 := by rfl
theorem witness_step_sends : step { streamAt 1 23 2#25 with inputs := [word] } =
    .next { streamAt 1 24 2#25 with sends := [0x00190000#32] } := by rfl
theorem witness_step_saturates : step { idleAt 9 0#64 with inputs := [ev 0b01#2 75000#64] } =
    .next (idleAt 9 75000#64) := by rfl

theorem witness_RecordsOfAStep :
    let s := { before1 with inputs := [ev 0b01#2 100000#64] }
    let u := { streamAt 1 23 2#25 with inputs := [word] }
    s.takesEvent = true ∧ changed1.cnt ≠ s.cnt ∧ u.takesWord = true ∧
      ¬ (u.takesEvent = true ∧ (streamAt 1 24 2#25).cnt ≠ u.cnt) := by decide

theorem witness_coherent_stream : State.Coherent { streamAt 1 23 2#25 with inputs := [word] } := by decide

theorem witness_NoEventBeginsDuringARender :
    let s := { streamAt 1 23 2#25 with inputs := [word] }
    s.phase = .stream ∧ s.ports.rst = false := by decide

theorem witness_TheLineDecidesTheDirection :
    let s := { before1 with inputs := [ev 0b01#2 100000#64] }
    let u := { idleAt 1 0#64 with inputs := [ev 0b10#2 75000#64] }
    (s.ports.rst = false ∧ changed1.cnt ≠ s.cnt) ∧
    (s.takesEvent = true ∧ OutsideWindow s.tsWidth s.ports.now s.lastTs ∧ s.ports.evLine = 0b01#2 ∧ s.cnt.val < 9) ∧
    (u.takesEvent = true ∧ OutsideWindow u.tsWidth u.ports.now u.lastTs ∧ u.ports.evLine = 0b10#2 ∧ 0 < u.cnt.val) := by
  decide

theorem witness_StepKeepsTheTimestampWithinItsWidth :
    State.lastTs { idleAt 9 75000#64 with tsWidth := 32 } = 75000#64 ∧
      (75000#64).toNat < 2 ^ (State.tsWidth { idleAt 9 75000#64 with tsWidth := 32 }).val := by decide

theorem witness_OnlyEventsAndResetWriteTheDataRegisters : (idleAt 9 75000#64).lastTs ≠ (idleAt 9 0#64).lastTs := by
  decide

theorem witness_ChangingEventSendsExactlyItsRender :
    let ins := ev 0b10#2 200000#64 :: List.replicate 24 word
    (∀ p ∈ ins, p.rst = false) ∧ ins.countP (·.pxReady) = 24 ∧ word.rst = false ∧ word.pxReady = true := by decide

theorem witness_ResetCutsTheRenderShort :
    let ins := List.replicate 10 word
    (∀ p ∈ ins, p.rst = false) ∧ ins.countP (·.pxReady) ≤ 24 ∧ rstPorts.rst = true := by decide

theorem witness_PresentedWordIsHeldWhileThePeripheralStalls :
    (streamAt 1 23 2#25).phase = .stream ∧
      ∀ p ∈ [ev 0b01#2 100000#64, Ports.quiet], p.rst = false ∧ p.pxReady = false := by decide

theorem witness_LeftoverRenderStateIsInvisible :
    State.phase { before1 with inputs := [ev 0b01#2 100000#64] } = .idle ∧
      run 1 { before1 with inputs := [ev 0b01#2 100000#64] } = .next changed1 := ⟨by decide, by rfl⟩

/-- A press at 100000 and one on the other line 74999 later. -/
theorem witness_AcceptedPressBlocksBothLines :
    let u := { changed1 with phase := .idle }
    exec (buttonEvent true 100000#64) before1 = .next changed1 ∧ u.cnt = changed1.cnt ∧ u.lastTs = changed1.lastTs ∧
    u.tsWidth = changed1.tsWidth ∧
    (100000#64).toNat ≤ (174999#64).toNat ∧ (174999#64).toNat - (100000#64).toNat < 75000 ∧
    exec (buttonEvent false 174999#64) u = .next u ∧ OutsideWindow 64 100000#64 before1.lastTs :=
  ⟨by rfl, by rfl, by rfl, by rfl, by decide, by decide, by rfl, by decide⟩

theorem witness_StartUpWindowRejectsEveryEvent :
    let evs := [ev 0b01#2 74999#64, ev 0b10#2 74999#64, word]
    State.inputs { streamAt 3 4 0#25 with inputs := rstPorts :: (evs ++ [word]) } = rstPorts :: (evs ++ [word]) ∧
    rstPorts.rst = true ∧ ∀ p ∈ evs, p.rst = false ∧ p.now.toNat < 75000 := by decide

theorem witness_FirstRenderAfterResetIsOfDigitOne :
    let r := { before1 with inputs := [ev 0b01#2 100000#64] }
    exec .reset { streamAt 3 4 0#25 with inputs := [ev 0b01#2 100000#64] } = .next r ∧
    (∀ p ∈ r.inputs.take 1, p.rst = false) ∧ run 1 r = .next changed1 := ⟨by rfl, by decide, by rfl⟩

theorem witness_ChangingEventsAreAWindowApart :
    let s := { before1 with inputs := [ev 0b01#2 100000#64] }
    MonotoneTime 1 s.lastTs s ∧ (∀ p ∈ s.inputs.take 1, p.rst = false) ∧ run 1 s = .next changed1 := by
  refine ⟨⟨by decide, ?_⟩, by decide, by rfl⟩
  rw [witness_step_changes]
  trivial

theorem witness_EachFallingEdgeIsOneEventOfItsLine :
    edgeEvents ⟨true, true⟩ ⟨false, false⟩ = [0b01#2, 0b10#2] ∧ edgeEvents ⟨false, true⟩ ⟨true, true⟩ = [] := by decide

/-- A `DRAIN` that finds two words left, a rejected `PRESS`, which drains nothing, an unknown line and an `UP`. -/
theorem witness_PresentedScheduleRunsTheProgram :
    runProgram [.drain, .pressUp 74999, .nop3 80000, .up 80000] (streamAt 1 23 2#25) =
      .next { idleAt 2 80000#64 with
        phase := .stream, pix := 4#25, logs := [2], sends := [0x00190000#32, 0x00000000#32] } := by rfl

end Sys2Proof.Tests
end

section
/-! PROOFS. The memory (20_memory.md): the ROM is a constant of every step, hence of every run. -/

namespace Sys2Proof.Machine

/-- What every step keeps, every run keeps. -/
theorem run_keeps {α : Type} (f : State → α) (hstep : ∀ {s t : State}, step s = .next t → f t = f s) :
    ∀ {n : Nat} {s t : State}, run n s = .next t → f t = f s := by
  intro n
  induction n with
  | zero =>
    intro s t h
    rw [run_zero] at h
    injection h with h
    rw [h]
  | succ n ih =>
    intro s t h
    obtain ⟨u, hu, ht⟩ := run_succ_next h
    exact (ih ht).trans (hstep hu)

@[simp] theorem advanceStream_glyphRom (s : State) : (advanceStream s).glyphRom = s.glyphRom := by
  rw [advanceStream_frame]

/-- No step writes `GLYPH_ROM`, a reset included (10_state.md R24, 20_memory.md R52). -/
theorem step_glyphRom {s t : State} (h : step s = .next t) : t.glyphRom = s.glyphRom := by
  rcases step_cases h with ⟨_, reset⟩ | ⟨_, _, _, _, up⟩ | ⟨_, _, _, _, down⟩ | ⟨_, _, _, _, _, unknown⟩ |
    ⟨_, _, _, quiet⟩ | ⟨_, _, _, word⟩ | ⟨_, _, _, stall⟩
  · simp [reset]
  · simp [up]
  · simp [down]
  · simp [unknown]
  · simp [quiet]
  · simp [word]
  · simp [stall]

/-- Settles O23: every step keeps `GLYPH_ROM`, so every run does, and a lookup reads nothing else. -/
theorem glyphRomNeverChanges : Obligations.GlyphRomNeverChanges := by
  intro n s t h d
  rw [run_keeps State.glyphRom step_glyphRom h]

end Sys2Proof.Machine
end

section
/-! PROOFS. The debounced events (40_debounce.md): what an event of either button does in each of its three cases, and
that a counter changed without a reset was changed by such an event. -/

namespace Sys2Proof.Machine

/-! ### The counter -/

theorem satInc_eq_of_succ {c d : Digit} (h : d.val = c.val + 1) : satInc c = d :=
  Fin.ext ((satInc_val_of_lt (by omega)).trans h.symm)

theorem satDec_eq_of_pred {c d : Digit} (h : d.val + 1 = c.val) : satDec c = d := by
  have := satDec_val_of_pos (c := c) (by omega)
  exact Fin.ext (by omega)

/-- `SatInc` moves every digit but 9, so where it moves one it adds one. -/
theorem satInc_val_of_ne {c : Digit} (h : satInc c ≠ c) : (satInc c).val = c.val + 1 := by
  have : c.val ≠ 9 := fun e => h (satInc_of_eq_nine e)
  exact satInc_val_of_lt (by omega)

/-- `SatDec` moves every digit but 0, so where it moves one it takes one away. -/
theorem satDec_val_of_ne {c : Digit} (h : satDec c ≠ c) : (satDec c).val + 1 = c.val := by
  have : c.val ≠ 0 := fun e => h (satDec_of_eq_zero e)
  exact satDec_val_of_pos (by omega)

/-! ### An event of a known line -/

/-- How the event of a button moves the counter (40_debounce.md R68): ButtonUp for `true`, ButtonDown for `false`. -/
def buttonDelta (up : Bool) : Digit → Digit := if up then satInc else satDec

theorem exec_buttonEvent_of_idle (up : Bool) (now : Timestamp) {s : State} (h : s.phase = .idle) :
    exec (buttonEvent up now) s = .next (countEvent (buttonDelta up) now s) := by
  cases up with
  | true => exact takeEvent_of_idle (countEvent satInc now) h
  | false => exact takeEvent_of_idle (countEvent satDec now) h

theorem eq_sampleNow_of_toNat {w : TsWidth} {now T : Timestamp} (h : T.toNat = now.toNat % 2 ^ w.val) :
    T = sampleNow w now :=
  BitVec.eq_of_toNat_eq (h.trans (sampleNow_toNat w now).symm)

section
variable {delta : Digit → Digit} {now : Timestamp} {s : State}

/-- A too early event is discarded entirely (R70). -/
theorem countEvent_of_inside (h : ¬ OutsideWindow s.tsWidth now s.lastTs) : countEvent delta now s = s := by
  rcases countEvent_cases delta now s with ⟨_, rejected⟩ | ⟨hw, _⟩ | ⟨hw, _⟩
  · exact rejected
  · exact absurd hw h
  · exact absurd hw h

/-- An accepted event at the end of the range writes `LAST_TS` only (R71). -/
theorem countEvent_of_saturated (hw : OutsideWindow s.tsWidth now s.lastTs) (hd : delta s.cnt = s.cnt) :
    countEvent delta now s = s.setLastTs now := by
  rcases countEvent_cases delta now s with ⟨hw', _⟩ | ⟨_, _, stamped⟩ | ⟨_, hd', _⟩
  · exact absurd hw hw'
  · exact stamped
  · exact absurd hd hd'

/-- An accepted event that moves the counter to `c` stamps the time, begins the render of `c` and logs it (R72, R73). -/
theorem countEvent_of_changing {c : Digit} (hw : OutsideWindow s.tsWidth now s.lastTs) (hc : delta s.cnt = c)
    (hne : c ≠ s.cnt) :
    countEvent delta now s = { s with
      lastTs := sampleNow s.tsWidth now, cnt := c, phase := .stream, k := 0, pix := s.glyphRom.get c,
      logs := s.logs ++ [c] } := by
  subst hc
  rcases countEvent_cases delta now s with ⟨hw', _⟩ | ⟨_, hd, _⟩ | ⟨_, _, shown⟩
  · exact absurd hw hw'
  · exact absurd hd hne
  · exact shown

/-- Every accepted event stamps the time, whether or not it counts. -/
theorem countEvent_lastTs_of_outside (hw : OutsideWindow s.tsWidth now s.lastTs) :
    (countEvent delta now s).lastTs = sampleNow s.tsWidth now := by
  by_cases hd : delta s.cnt = s.cnt
  · rw [countEvent_of_saturated hw hd, State.setLastTs_lastTs]
  · rw [countEvent_of_changing hw rfl hd]

/-- Every accepted event moves the counter as its line says. -/
theorem countEvent_cnt_of_outside (hw : OutsideWindow s.tsWidth now s.lastTs) :
    (countEvent delta now s).cnt = delta s.cnt := by
  by_cases hd : delta s.cnt = s.cnt
  · rw [countEvent_of_saturated hw hd, State.setLastTs_cnt, hd]
  · rw [countEvent_of_changing hw rfl hd]

/-- Only an accepted event moves the counter. -/
theorem outsideWindow_of_countEvent_cnt_ne (h : (countEvent delta now s).cnt ≠ s.cnt) :
    OutsideWindow s.tsWidth now s.lastTs := by
  by_contra hw
  exact h (by rw [countEvent_of_inside hw])

theorem countEvent_cnt_of_cnt_ne (h : (countEvent delta now s).cnt ≠ s.cnt) :
    (countEvent delta now s).cnt = delta s.cnt :=
  countEvent_cnt_of_outside (outsideWindow_of_countEvent_cnt_ne h)

/-- An event that moves the counter was accepted, stamps the time and begins the render of the new value. -/
theorem countEvent_of_cnt_ne (h : (countEvent delta now s).cnt ≠ s.cnt) :
    OutsideWindow s.tsWidth now s.lastTs ∧ (countEvent delta now s).lastTs = sampleNow s.tsWidth now ∧
      (countEvent delta now s).phase = .stream ∧ (countEvent delta now s).k = 0 ∧
      (countEvent delta now s).pix = s.glyphRom.get (countEvent delta now s).cnt := by
  have hw := outsideWindow_of_countEvent_cnt_ne h
  rw [countEvent_cnt_of_outside hw] at h
  rw [countEvent_of_changing hw rfl h]
  exact ⟨hw, rfl, rfl, rfl, rfl⟩

theorem countEvent_satInc_cnt_of_ne (h : (countEvent satInc now s).cnt ≠ s.cnt) :
    (countEvent satInc now s).cnt.val = s.cnt.val + 1 := by
  have counted := countEvent_cnt_of_cnt_ne h
  rw [counted] at h ⊢
  exact satInc_val_of_ne h

theorem countEvent_satDec_cnt_of_ne (h : (countEvent satDec now s).cnt ≠ s.cnt) :
    (countEvent satDec now s).cnt.val + 1 = s.cnt.val := by
  have counted := countEvent_cnt_of_cnt_ne h
  rw [counted] at h ⊢
  exact satDec_val_of_ne h

end

/-! ### The step that counts -/

theorem takesEvent_iff (s : State) :
    s.takesEvent = true ↔ s.ports.rst = false ∧ s.phase = .idle ∧ s.ports.evValid = true := by
  cases hp : s.phase <;> simp [State.takesEvent, hp, and_comm]

@[simp] theorem advanceStream_cnt (s : State) : (advanceStream s).cnt = s.cnt := by
  rw [advanceStream_frame]

/-- A step without reset that changes the counter is a counting event of one of the two known lines. -/
theorem step_cnt_ne_cases {s t : State} (h : step s = .next t) (hr : s.ports.rst = false) (hc : t.cnt ≠ s.cnt) :
    (s.takesEvent = true ∧ s.ports.evLine = 0b01#2 ∧ t = countEvent satInc s.ports.now s.dropInput) ∨
    (s.takesEvent = true ∧ s.ports.evLine = 0b10#2 ∧ t = countEvent satDec s.ports.now s.dropInput) := by
  cases hp : s.phase with
  | idle => exact (step_idle_cases h hr hp).resolve_left fun waits => hc (by rw [waits, State.dropInput_cnt])
  | stream =>
    rcases step_stream_cases h hr hp with ⟨_, stall⟩ | ⟨_, word⟩
    · exact absurd (by simp [stall]) hc
    · exact absurd (by simp [word]) hc

/-! ### The obligations -/

/-- Settles O13: `Accept` is the window in plain arithmetic, and the event of either button is the one counting event
measured from the one `LAST_TS`. -/
theorem eitherLineIsAcceptedFromTheWindowOn : Obligations.EitherLineIsAcceptedFromTheWindowOn := by
  refine ⟨fun w now last => ?_, fun up now s hp => ⟨_, exec_buttonEvent_of_idle up now hp, fun ha => ?_, fun ha => ?_⟩⟩
  · rw [accept_iff_outsideWindow, elapsed_toNat]
  · rw [countEvent_lastTs_of_outside ((accept_iff_outsideWindow _ _ _).mp ha), sampleNow_toNat]
  · exact countEvent_of_inside fun hw => Bool.false_ne_true (ha.symm.trans ((accept_iff_outsideWindow _ _ _).mpr hw))

/-- Settles O16: the three cases of a counting event, with `SatInc` fixed at 9 only. -/
theorem evUpCountsShowsAndStamps : Obligations.EvUpCountsShowsAndStamps := by
  intro now T s hp hT
  have hexec : exec (.evUp now) s = .next (countEvent satInc now s) := exec_buttonEvent_of_idle true now hp
  rw [hexec, eq_sampleNow_of_toNat hT]
  refine ⟨fun hw => ?_, fun hw h9 => ?_, fun hw c hc => ?_⟩
  · rw [countEvent_of_inside hw]
  · rw [countEvent_of_saturated hw (satInc_of_eq_nine (by simp [h9])), State.setLastTs]
  · rw [countEvent_of_changing hw (satInc_eq_of_succ hc) (Fin.ne_of_val_ne (by omega))]

/-- Settles O17: the three cases of a counting event, with `SatDec` fixed at 0 only. -/
theorem evDownCountsShowsAndStamps : Obligations.EvDownCountsShowsAndStamps := by
  intro now T s hp hT
  have hexec : exec (.evDown now) s = .next (countEvent satDec now s) := exec_buttonEvent_of_idle false now hp
  rw [hexec, eq_sampleNow_of_toNat hT]
  refine ⟨fun hw => ?_, fun hw h0 => ?_, fun hw c hc => ?_⟩
  · rw [countEvent_of_inside hw]
  · rw [countEvent_of_saturated hw (satDec_of_eq_zero (by simp [h0])), State.setLastTs]
  · rw [countEvent_of_changing hw (satDec_eq_of_pred hc) (Fin.ne_of_val_ne (by omega))]

/-- Settles O32: an accepted event counts as its line says; conversely a counter changed without a reset was changed by
a counting event, which counts outside the window only and then stamps and renders as well. -/
theorem theLineDecidesTheDirection : Obligations.TheLineDecidesTheDirection := by
  refine ⟨fun s ht hw => ?_, fun s t h hr hc => ?_⟩
  · obtain ⟨hr, hp, he⟩ := (takesEvent_iff s).mp ht
    refine ⟨fun hl h9 => ⟨_, step_of_up hr hp he hl, ?_⟩, fun hl h0 => ⟨_, step_of_down hr hp he hl, ?_⟩⟩
    · rw [countEvent_cnt_of_outside (s := s.dropInput) hw]
      exact satInc_val_of_lt h9
    · rw [countEvent_cnt_of_outside (s := s.dropInput) hw]
      exact satDec_val_of_pos h0
  · rcases step_cnt_ne_cases h hr hc with ⟨ht, hl, rfl⟩ | ⟨ht, hl, rfl⟩
    · obtain ⟨hw, shown⟩ := countEvent_of_cnt_ne hc
      exact ⟨ht, hw, .inl ⟨hl, countEvent_satInc_cnt_of_ne hc⟩, shown⟩
    · obtain ⟨hw, shown⟩ := countEvent_of_cnt_ne hc
      exact ⟨ht, hw, .inr ⟨hl, countEvent_satDec_cnt_of_ne hc⟩, shown⟩

end Sys2Proof.Machine
end

section
/-! PROOFS. The pixel mapper (42_pixel_mapper.md): the word transfer, the render a changing event begins, followed word
by word over any schedule without reset, and the simulation by which a leftover `K` and `PIX` have no effect. -/

namespace Sys2Proof.Machine

/-! ### The word transfer -/

theorem exec_pxXfer_of_stream {s : State} (h : s.phase = .stream) :
    exec .pxXfer s = .next (advanceStream (s.send s.streamWord)) := by
  simp [exec, execPxXfer, h]

theorem nextWord_eq_of_succ {s : State} {k' : WordIndex} (h : k'.val = s.k.val + 1) :
    s.nextWord = { s with k := k' } := by
  have hk : s.nextWord.k = k' := Fin.ext ((nextWord_k_val (by omega)).trans h.symm)
  rw [← hk]
  rfl

/-- Settles O19: the due word is `{0x00, R, 0x00, 0x00}` by `Color`, and the stream moves on by the value of `K`. -/
theorem pxXferSendsTheDueWord : Obligations.PxXferSendsTheDueWord := by
  intro s w hp hw
  have due : s.streamWord = w := hw.symm
  rw [exec_pxXfer_of_stream hp, due]
  refine ⟨fun hk => ?_, fun k' hk' => ?_⟩
  · rw [advanceStream_of_last (s := s.send w) (Fin.ext hk)]
    rfl
  · rw [advanceStream_of_lt (s := s.send w) (show s.k.val < 24 by omega),
      nextWord_eq_of_succ (s := s.send w) hk']
    rfl

/-! ### The words of a render -/

@[simp] theorem length_glyphWords (g : Glyph) : (glyphWords g).length = 25 := by
  simp [glyphWords]

theorem glyphWords_take_succ (g : Glyph) (j : WordIndex) :
    (glyphWords g).take (j.val + 1) = (glyphWords g).take j.val ++ [color (g.getLsbD (24 - j.val))] := by
  rw [List.take_succ_eq_append_getElem (by simp)]
  simp [glyphWords]

/-- A render begun in `s`, with `ins` to come, when its first `j` words have been sent. -/
def State.afterWords (s : State) (j : WordIndex) (ins : List Ports) : State :=
  { s with inputs := ins, k := j, sends := s.sends ++ (glyphWords s.pix).take j.val }

theorem afterWords_zero {s : State} (h : s.k = 0) (ins : List Ports) :
    s.afterWords 0 ins = { s with inputs := ins } := by
  simp [State.afterWords, ← h]

section
variable {s : State} (hp : s.phase = .stream)
include hp

theorem step_afterWords_of_stall (j : WordIndex) {p : Ports} (ins : List Ports) (hr : p.rst = false)
    (hx : p.pxReady = false) : step (s.afterWords j (p :: ins)) = .next (s.afterWords j ins) :=
  step_of_stall hr hp hx

/-- The transfer of the due word, which makes one word more of the render sent. -/
theorem step_afterWords_of_ready (j : WordIndex) {p : Ports} (ins : List Ports) (hr : p.rst = false)
    (hx : p.pxReady = true) :
    step (s.afterWords j (p :: ins)) = .next (advanceStream
      { s with inputs := ins, k := j, sends := s.sends ++ (glyphWords s.pix).take (j.val + 1) }) := by
  rw [glyphWords_take_succ, ← List.append_assoc]
  exact step_of_word (s := s.afterWords j (p :: ins)) hr hp hx

theorem step_afterWords_of_succ {j k : WordIndex} (hk : k.val = j.val + 1) {p : Ports} (ins : List Ports)
    (hr : p.rst = false) (hx : p.pxReady = true) :
    step (s.afterWords j (p :: ins)) = .next (s.afterWords k ins) := by
  rw [step_afterWords_of_ready hp j ins hr hx, ← hk, advanceStream_of_lt (show j.val < 24 by omega),
    nextWord_eq_of_succ hk]
  rfl

/-- The 25th word completes the render. -/
theorem step_afterWords_last {p : Ports} (ins : List Ports) (hr : p.rst = false) (hx : p.pxReady = true) :
    step (s.afterWords 24 (p :: ins)) =
      .next { s with inputs := ins, phase := .idle, k := 0, sends := s.sends ++ glyphWords s.pix } := by
  rw [step_afterWords_of_ready hp 24 ins hr hx, advanceStream_of_last rfl, List.take_of_length_le (by simp)]
  rfl

/-- Over a schedule without reset, one word is sent for each entry with `px_ready`, as long as the last one is not
due. -/
theorem run_afterWords {ins : List Ports} (rest : List Ports) {j k : WordIndex} (hr : ∀ p ∈ ins, p.rst = false)
    (hk : k.val = j.val + ins.countP Ports.pxReady) :
    run ins.length (s.afterWords j (ins ++ rest)) = .next (s.afterWords k rest) := by
  induction ins generalizing j with
  | nil => rw [show k = j from Fin.ext hk]; exact run_zero _
  | cons p ins ih =>
    obtain ⟨hp_rst, hins_rst⟩ := List.forall_mem_cons.mp hr
    rw [List.length_cons, List.cons_append]
    cases hx : p.pxReady with
    | false =>
      rw [List.countP_cons_of_neg (by simp [hx])] at hk
      rw [run_succ_of_step _ (step_afterWords_of_stall hp j _ hp_rst hx)]
      exact ih hins_rst hk
    | true =>
      rw [List.countP_cons_of_pos hx] at hk
      obtain ⟨i, hi⟩ : ∃ i : WordIndex, i.val = j.val + 1 := ⟨⟨j.val + 1, by omega⟩, rfl⟩
      rw [run_succ_of_step _ (step_afterWords_of_succ hp hi _ hp_rst hx)]
      exact ih hins_rst (by omega)

/-- The whole render: it ends with the entry that brings the 25th `px_ready`. -/
theorem run_whole_render (hk : s.k = 0) {ins : List Ports} {last : Ports} (rest : List Ports)
    (hr : ∀ p ∈ ins, p.rst = false) (hcount : ins.countP Ports.pxReady = 24) (hlr : last.rst = false)
    (hlx : last.pxReady = true) :
    run (ins.length + 1) { s with inputs := ins ++ last :: rest } =
      .next { s with inputs := rest, phase := .idle, k := 0, sends := s.sends ++ glyphWords s.pix } := by
  have first24 := run_afterWords hp (last :: rest) (j := 0) (k := 24) hr (by simp [hcount])
  rw [← afterWords_zero hk, run_add _ 1 first24, run_succ_of_step 0 (step_afterWords_last hp rest hlr hlx), run_zero]

end

/-! ### The event that begins a render -/

theorem exec_buttonEvent_next {up : Bool} {now : Timestamp} {s t : State}
    (h : exec (buttonEvent up now) s = .next t) :
    s.phase = .idle ∧ t = countEvent (buttonDelta up) now s := by
  cases up with
  | true => exact takeEvent_next (effect := countEvent satInc now) h
  | false => exact takeEvent_next (effect := countEvent satDec now) h

/-- A changing event leaves the block at the first word of the new value's glyph, with nothing sent yet. -/
theorem changing_buttonEvent_begins_render {up : Bool} {now : Timestamp} {s t : State}
    (h : exec (buttonEvent up now) s = .next t) (hc : t.cnt ≠ s.cnt) :
    t.phase = .stream ∧ t.k = 0 ∧ t.pix = s.glyphRom.get t.cnt ∧ t.sends = s.sends := by
  obtain ⟨-, rfl⟩ := exec_buttonEvent_next h
  obtain ⟨-, -, hphase, hk, hpix⟩ := countEvent_of_cnt_ne hc
  exact ⟨hphase, hk, hpix, countEvent_sends _ _ _⟩

/-- Settles O34: a changing event begins the render of the new value's glyph, and a render begun is completed whatever
events are presented. -/
theorem changingEventSendsExactlyItsRender : Obligations.ChangingEventSendsExactlyItsRender := by
  intro up now s t ins last rest h hc hr hcount hlr hlx
  obtain ⟨hphase, hk, hpix, hsends⟩ := changing_buttonEvent_begins_render h hc
  rw [run_whole_render hphase hk rest hr hcount hlr hlx, hpix, hsends]

/-! ### What an earlier render left behind -/

/-- `s'` is `s` but for what an earlier render left in `K` and `PIX`, and is `s` while a render is in progress. -/
def SameUpToLeftover (s s' : State) : Prop :=
  s' = { s with k := s'.k, pix := s'.pix } ∧ (s.phase = .stream → s' = s)

theorem SameUpToLeftover.refl (s : State) : SameUpToLeftover s s := ⟨rfl, fun _ => rfl⟩

theorem sameUpToLeftover_of_idle {s : State} (h : s.phase = .idle) (k : WordIndex) (g : Glyph) :
    SameUpToLeftover s { s with k := k, pix := g } :=
  ⟨rfl, fun hs => by rw [h] at hs; cases hs⟩

/-- A counting event overwrites the leftover where it begins a render, and is blind to it elsewhere. -/
theorem countEvent_sameUpToLeftover {delta : Digit → Digit} {now : Timestamp} {s : State} (h : s.phase = .idle)
    (k : WordIndex) (g : Glyph) :
    SameUpToLeftover (countEvent delta now s) (countEvent delta now { s with k := k, pix := g }) := by
  by_cases hw : OutsideWindow s.tsWidth now s.lastTs
  · by_cases hd : delta s.cnt = s.cnt
    · rw [countEvent_of_saturated hw hd, countEvent_of_saturated (s := { s with k := k, pix := g }) hw hd]
      exact sameUpToLeftover_of_idle (s := s.setLastTs now) h k g
    · rw [countEvent_of_changing hw rfl hd, countEvent_of_changing (s := { s with k := k, pix := g }) hw rfl hd]
      exact .refl _
  · rw [countEvent_of_inside hw, countEvent_of_inside (s := { s with k := k, pix := g }) hw]
    exact sameUpToLeftover_of_idle h k g

/-- In `IDLE` the step taken depends on the ports alone, so both states take the same one. -/
theorem step_of_idle_sameUpToLeftover {s t : State} (hp : s.phase = .idle) (h : step s = .next t) (k : WordIndex)
    (g : Glyph) : ∃ t', step { s with k := k, pix := g } = .next t' ∧ SameUpToLeftover t t' := by
  have waits : SameUpToLeftover s.dropInput { s.dropInput with k := k, pix := g } :=
    sameUpToLeftover_of_idle (s := s.dropInput) hp k g
  rcases step_cases h with ⟨hr, rfl⟩ | ⟨hr, _, he, hl, rfl⟩ | ⟨hr, _, he, hl, rfl⟩ | ⟨hr, _, he, hu, hd, rfl⟩ |
    ⟨hr, _, he, rfl⟩ | ⟨_, hs, _⟩ | ⟨_, hs, _⟩
  · exact ⟨_, step_of_rst hr, .refl _⟩
  · exact ⟨_, step_of_up hr hp he hl, countEvent_sameUpToLeftover (s := s.dropInput) hp k g⟩
  · exact ⟨_, step_of_down hr hp he hl, countEvent_sameUpToLeftover (s := s.dropInput) hp k g⟩
  · exact ⟨_, step_of_unknown hr hp he hu hd, waits⟩
  · exact ⟨_, step_of_idle_quiet hr hp he, waits⟩
  · rw [hp] at hs; cases hs
  · rw [hp] at hs; cases hs

theorem step_sameUpToLeftover {s s' t : State} (hsim : SameUpToLeftover s s') (h : step s = .next t) :
    ∃ t', step s' = .next t' ∧ SameUpToLeftover t t' := by
  obtain ⟨hidle, hstream⟩ := hsim
  cases hp : s.phase with
  | idle =>
    rw [hidle]
    exact step_of_idle_sameUpToLeftover hp h _ _
  | stream =>
    rw [hstream hp]
    exact ⟨t, h, .refl t⟩

/-- A relation that every step carries over, every run carries over. -/
theorem run_simulation {R : State → State → Prop}
    (hstep : ∀ {s s' t : State}, R s s' → step s = .next t → ∃ t', step s' = .next t' ∧ R t t') :
    ∀ {n : Nat} {s s' t : State}, R s s' → run n s = .next t → ∃ t', run n s' = .next t' ∧ R t t' := by
  intro n
  induction n with
  | zero =>
    intro s s' t hR h
    rw [run_zero] at h
    injection h with h
    exact ⟨s', run_zero s', h ▸ hR⟩
  | succ n ih =>
    intro s s' t hR h
    obtain ⟨u, hu, ht⟩ := run_succ_next h
    obtain ⟨u', hu', hR'⟩ := hstep hR hu
    obtain ⟨t', ht', hsim⟩ := ih hR' ht
    exact ⟨t', (run_succ_of_step n hu').trans ht', hsim⟩

/-- Settles O37: every step carries `SameUpToLeftover` over, so every run does. -/
theorem leftoverRenderStateIsInvisible : Obligations.LeftoverRenderStateIsInvisible := by
  intro n s t k' pix' hp h
  exact run_simulation step_sameUpToLeftover (sameUpToLeftover_of_idle hp k' pix') h

end Sys2Proof.Machine
end

section
/-! PROOFS. The exceptions (60_exceptions.md): renders do not nest, because in `STREAM` the block offers no event
transfer and a word transfer writes none of the registers of an event. -/

namespace Sys2Proof.Machine

/-- In `STREAM` the ports can ask for a reset or a word only (60_exceptions.md R104). -/
theorem fetch_of_stream_isEvent {s : State} (hp : s.phase = .stream) {i : Instr} (hi : fetch s = .step i) :
    i.isEvent = false := by
  cases hr : s.ports.rst with
  | true =>
    rw [fetch_of_rst hr] at hi
    injection hi with reset
    rw [← reset]; rfl
  | false =>
    cases hx : s.ports.pxReady with
    | true =>
      rw [fetch_of_word hr hp hx] at hi
      injection hi with word
      rw [← word]; rfl
    | false =>
      rw [fetch_of_stall hr hp hx] at hi
      cases hi

/-- During a render a step without reset keeps all but `PHASE`, `K`, the schedule and the words sent. -/
theorem step_of_stream_frame {s t : State} (h : step s = .next t) (hr : s.ports.rst = false)
    (hp : s.phase = .stream) :
    t = { s with phase := t.phase, k := t.k, inputs := t.inputs, sends := t.sends } := by
  rcases step_stream_cases h hr hp with ⟨_, stall⟩ | ⟨_, word⟩
  · rw [stall]; rfl
  · rw [word, advanceStream_frame]; rfl

/-- Settles O31: in `STREAM` no event is fetched, and the frame of a word transfer holds what an event would write. -/
theorem noEventBeginsDuringARender : Obligations.NoEventBeginsDuringARender := by
  intro s hp
  refine ⟨evReady_of_stream hp, fun _ hi => fetch_of_stream_isEvent hp hi, fun t hr h => ?_⟩
  rw [step_of_stream_frame h hr hp]
  exact ⟨rfl, rfl, rfl, rfl, rfl⟩

end Sys2Proof.Machine
end

section
/-! PROOFS. The encoding (30_encoding.md): a code decodes to a step exactly if it lies in that step's row of the opcode
table, and an encoding is the row's match with the ignored bits filled in. -/

namespace Sys2Proof

/-- A row whose mask ignores no bit holds one code. -/
theorem eq_of_and_full_mask {S c : StepCode} (h : S &&& 0b11111#5 = c) : S = c :=
  BitVec.and_allOnes.symm.trans h

/-- The row `001xx` of `PX_XFER` holds four codes. -/
theorem codes_of_word_row :
    ∀ S : StepCode, S &&& 0b11100#5 = 0b00100#5 → S = 4#5 ∨ S = 5#5 ∨ S = 6#5 ∨ S = 7#5 := by decide

/-- A code in the row of a step decodes to it, with the operand `now` where the step has one. -/
theorem decode_of_row {S : StepCode} {now : Timestamp} {i : Instr} (hrow : S &&& i.row.1 = i.row.2)
    (hnow : i.isEvent = true → i.nowOperand = now) : decode S now = .step i := by
  cases i with
  | reset => exact if_pos hrow
  | evUp t | evDown t | evNop00 t | evNop11 t =>
    dsimp only [Instr.row] at hrow
    obtain rfl := eq_of_and_full_mask hrow
    obtain rfl : t = now := hnow rfl
    rfl
  | pxXfer =>
    rcases codes_of_word_row S hrow with rfl | rfl | rfl | rfl <;> rfl

/-- A code that decodes to a step lies in its row, and an event step carries the presented `now`. -/
theorem row_of_decode {S : StepCode} {now : Timestamp} {i : Instr} (h : decode S now = .step i) :
    S &&& i.row.1 = i.row.2 ∧ (i.isEvent = true → i.nowOperand = now) := by
  unfold decode at h
  split_ifs at h with hreset hup hdown hnop00 hnop11 hpx
  · cases h; exact ⟨hreset, nofun⟩
  · cases h; subst hup; exact ⟨by simp [Instr.row], fun _ => rfl⟩
  · cases h; subst hdown; exact ⟨by simp [Instr.row], fun _ => rfl⟩
  · cases h; subst hnop00; exact ⟨by simp [Instr.row], fun _ => rfl⟩
  · cases h; subst hnop11; exact ⟨by simp [Instr.row], fun _ => rfl⟩
  · cases h; exact ⟨hpx, nofun⟩

/-- No row asks for a bit that its mask ignores. -/
theorem row_match_and_mask (i : Instr) : i.row.2 &&& i.row.1 = i.row.2 := by
  cases i <;> simp [Instr.row]

theorem encodeWith_code_and_mask (ignored : StepCode) (i : Instr) :
    (encodeWith ignored i).code &&& i.row.1 = i.row.2 := by
  rw [encodeWith, BitVec.and_comm, BitVec.and_or_distrib_left, BitVec.and_comm i.row.1 i.row.2, row_match_and_mask]
  simp [BitVec.and_comm ignored, ← BitVec.and_assoc]

/-- Filling the ignored bits of a row from a code of that row gives the code back. -/
theorem encodeWith_code_of_row {S : StepCode} {i : Instr} (hrow : S &&& i.row.1 = i.row.2) :
    (encodeWith S i).code = S := by
  rw [encodeWith, ← hrow, ← BitVec.and_or_distrib_left, BitVec.or_not_self, BitVec.and_allOnes]

/-- Settles O1: an encoding is a code of its step's row, and a code that decodes to a step lies in that row. -/
theorem decodeAndEncodeAgree : Obligations.DecodeAndEncodeAgree := by
  refine ⟨fun ignored i => decode_of_row (encodeWith_code_and_mask ignored i) fun _ => rfl, fun w i h => ?_⟩
  obtain ⟨hrow, hnow⟩ := row_of_decode h
  have code : (encodeWith w.code i).code = w.code := encodeWith_code_of_row hrow
  refine ⟨code, fun hi => ?_⟩
  have operand : (encodeWith w.code i).now = w.now := hnow hi
  calc encodeWith w.code i = ⟨(encodeWith w.code i).code, (encodeWith w.code i).now⟩ := rfl
    _ = w := by rw [code, operand]

/-- Settles O2: the six rows by `decode_of_row`, the codes of no step by evaluation at `now` = 0. -/
theorem decodeTableCoversEveryCode : Obligations.DecodeTableCoversEveryCode := by
  have resetRow : ∀ S : StepCode, 16 ≤ S.toNat → S &&& 0b10000#5 = 0b10000#5 := by decide
  have wordRow : ∀ S : StepCode, 4 ≤ S.toNat ∧ S.toNat ≤ 7 → S &&& 0b11100#5 = 0b00100#5 := by decide
  have refused : ∀ S : StepCode, 12 ≤ S.toNat ∧ S.toNat ≤ 15 → decode S 0#64 = .unreachable := by decide
  have noStep : ∀ S : StepCode, S.toNat ≤ 3 → decode S 0#64 = .wait := by decide
  have eventRow : ∀ S c : StepCode, S.toNat = c.toNat → S &&& 0b11111#5 = c := fun S c h =>
    BitVec.and_allOnes.trans (BitVec.eq_of_toNat_eq h)
  intro S now
  exact ⟨fun h => decode_of_row (resetRow S h) nofun,
    fun h => (decode_unreachable_iff S now).mpr (refused S h),
    fun h => decode_of_row (eventRow S 11#5 h) fun _ => rfl,
    fun h => decode_of_row (eventRow S 10#5 h) fun _ => rfl,
    fun h => decode_of_row (eventRow S 9#5 h) fun _ => rfl,
    fun h => decode_of_row (eventRow S 8#5 h) fun _ => rfl,
    fun h => decode_of_row (wordRow S h) nofun,
    fun h => (decode_wait_iff S now).mpr (noStep S h)⟩

/-- Settles O3, by evaluating the decoder on the eight words. -/
theorem tableWordsDecodeToTheirSteps : Obligations.TableWordsDecodeToTheirSteps := by
  unfold Obligations.TableWordsDecodeToTheirSteps
  decide

/-- A table word that stands for a step is a code that decodes to it. -/
theorem decode_of_decodeTableWord {nbits w : Nat} {i : Instr} (h : decodeTableWord nbits w = some i) :
    decode (BitVec.ofNat 5 (w % 2 ^ nbits)) 0#64 = .step i := by
  simp only [decodeTableWord] at h
  split_ifs at h with hfits
  split at h
  · next step => rw [step, Option.some.inj h]
  · cases h
  · cases h

end Sys2Proof
end

section
/-! PROOFS. The step (10_state.md section 3, 30_encoding.md section 3): the four things the ports can ask for, that what
they ask for can always be run, and what a step opportunity depends on. -/

namespace Sys2Proof.Machine

/-! ### The step code -/

/-- The four parts of the step code lie in bits 4, 3, 2 and 1:0. -/
theorem stepCode_bits (r e x : Bool) (line : LineCode) :
    let S : StepCode := BitVec.ofBool r ++ BitVec.ofBool e ++ BitVec.ofBool x ++ line
    S.getLsbD 4 = r ∧ S.getLsbD 3 = e ∧ S.getLsbD 2 = x ∧ S.extractLsb' 0 2 = line := by
  revert r e x line
  decide

/-- `ev_ready` is `PHASE = IDLE` (10_state.md R30). -/
theorem evReady_iff (s : State) : s.evReady = true ↔ s.phase = .idle := by
  cases hp : s.phase <;> simp [hp]

/-- `px_valid` is `PHASE = STREAM` (10_state.md R30). -/
theorem pxValid_iff (s : State) : s.pxValid = true ↔ s.phase = .stream := by
  cases hp : s.phase <;> simp [hp]

/-- Settles O4: the code is the concatenation of its parts, and the handshakes follow the phase. -/
theorem stepCodeIsFormedFromThePorts : Obligations.StepCodeIsFormedFromThePorts := by
  intro p s
  obtain ⟨rst, event, word, line⟩ := stepCode_bits p.rst (p.evValid && s.evReady) (s.pxValid && p.pxReady) p.evLine
  refine ⟨rst, ?_, ?_, line⟩
  · rw [← evReady_iff, ← Bool.and_eq_true]
    exact Bool.eq_iff_iff.mp event
  · rw [← pxValid_iff, ← Bool.and_eq_true]
    exact Bool.eq_iff_iff.mp word

/-! ### What the ports ask for -/

@[simp] theorem lineEvent_isEvent (line : LineCode) (now : Timestamp) : (lineEvent line now).isEvent = true := by
  unfold lineEvent
  split_ifs <;> rfl

theorem lineEvent_ne_pxXfer (line : LineCode) (now : Timestamp) : lineEvent line now ≠ .pxXfer := fun h => by
  simpa [h, Instr.isEvent] using lineEvent_isEvent line now

theorem takesWord_iff (s : State) :
    s.takesWord = true ↔ s.ports.rst = false ∧ s.phase = .stream ∧ s.ports.pxReady = true := by
  cases hp : s.phase <;> simp [State.takesWord, hp, and_comm]

theorem takesEvent_of_rst {s : State} (h : s.ports.rst = true) : s.takesEvent = false := by simp [State.takesEvent, h]
theorem takesEvent_of_stream {s : State} (h : s.phase = .stream) : s.takesEvent = false := by simp [State.takesEvent, h]
theorem takesWord_of_rst {s : State} (h : s.ports.rst = true) : s.takesWord = false := by simp [State.takesWord, h]
theorem takesWord_of_idle {s : State} (h : s.phase = .idle) : s.takesWord = false := by simp [State.takesWord, h]

/-- The ports ask for a reset, or the block takes an event, or the peripheral takes a word, or nothing happens. -/
theorem fetch_cases (s : State) :
    (s.ports.rst = true ∧ s.takesEvent = false ∧ s.takesWord = false ∧ fetch s = .step .reset) ∨
    (s.takesEvent = true ∧ s.takesWord = false ∧ fetch s = .step (lineEvent s.ports.evLine s.ports.now)) ∨
    (s.takesEvent = false ∧ s.takesWord = true ∧ fetch s = .step .pxXfer) ∨
    (s.ports.rst = false ∧ s.takesEvent = false ∧ s.takesWord = false ∧ fetch s = .wait) := by
  cases hr : s.ports.rst with
  | true => exact .inl ⟨rfl, takesEvent_of_rst hr, takesWord_of_rst hr, fetch_of_rst hr⟩
  | false =>
    cases hp : s.phase with
    | idle =>
      cases he : s.ports.evValid with
      | true => exact .inr (.inl ⟨(takesEvent_iff s).mpr ⟨hr, hp, he⟩, takesWord_of_idle hp, fetch_of_event hr hp he⟩)
      | false =>
        have noEvent : s.takesEvent = false := by simp [State.takesEvent, he]
        exact .inr (.inr (.inr ⟨rfl, noEvent, takesWord_of_idle hp, fetch_of_idle_quiet hr hp he⟩))
    | stream =>
      cases hx : s.ports.pxReady with
      | true =>
        exact .inr (.inr (.inl ⟨takesEvent_of_stream hp, (takesWord_iff s).mpr ⟨hr, hp, hx⟩, fetch_of_word hr hp hx⟩))
      | false =>
        have noWord : s.takesWord = false := by simp [State.takesWord, hx]
        exact .inr (.inr (.inr ⟨rfl, takesEvent_of_stream hp, noWord, fetch_of_stall hr hp hx⟩))

theorem fetch_ne_unreachable (s : State) : fetch s ≠ .unreachable := by
  rcases fetch_cases s with ⟨_, _, _, hf⟩ | ⟨_, _, hf⟩ | ⟨_, _, hf⟩ | ⟨_, _, _, hf⟩ <;> simp [hf]

/-- Settles O8: a code formed from any ports and any operand is what some state fetches. -/
theorem unreachableCodeIsNeverFormed : Obligations.UnreachableCodeIsNeverFormed := by
  intro p s now
  exact fetch_ne_unreachable { s with inputs := [{ p with now := now }] }

/-- Settles O9: each of the four cases of `fetch_cases` decides both transfers and the step fetched. -/
theorem transfersHappenExactlyWhenOffered : Obligations.TransfersHappenExactlyWhenOffered := by
  intro s
  rcases fetch_cases s with ⟨_, he, hw, hf⟩ | ⟨he, hw, hf⟩ | ⟨he, hw, hf⟩ | ⟨_, he, hw, hf⟩
  · simp [he, hw, hf, Instr.isEvent]
  · exact ⟨by simp [he, hf], by simp [hw, hf, lineEvent_ne_pxXfer], fun _ => hf⟩
  · simp [he, hw, hf, Instr.isEvent]
  · simp [he, hw, hf]

/-! ### What is fetched is run -/

theorem step_of_fetch {s : State} {i : Instr} (h : fetch s = .step i) : step s = exec i s.dropInput := by
  simp [step, h]

theorem step_of_wait {s : State} (h : fetch s = .wait) : step s = .next s.dropInput := by
  simp [step, h]

theorem ports_of_inputs {s : State} {p : Ports} {rest : List Ports} (h : s.inputs = p :: rest) : s.ports = p := by
  simp [State.ports, h]

theorem dropInput_of_inputs {s : State} {p : Ports} {rest : List Ports} (h : s.inputs = p :: rest) :
    s.dropInput = { s with inputs := rest } := by
  simp [State.dropInput, h]

/-- With an exhausted schedule the environment has nothing to move on to. -/
theorem dropInput_of_exhausted {s : State} (h : s.inputs = []) : s.dropInput = s := by
  rw [State.dropInput, h, List.tail_nil, ← h]

/-- Settles O5: with the schedule's next entry on the ports, the code that entry forms is the one fetched. -/
theorem stepRunsTheDecodedStep : Obligations.StepRunsTheDecodedStep := by
  intro s p rest i hs hi
  have fetched : fetch s = .step i := by rwa [fetch, ports_of_inputs hs]
  rw [step_of_fetch fetched, dropInput_of_inputs hs]

theorem step_of_no_transfer {s : State} (hr : s.ports.rst = false) (he : s.takesEvent = false)
    (hw : s.takesWord = false) : step s = .next s.dropInput := by
  rcases fetch_cases s with ⟨hr', _⟩ | ⟨he', _⟩ | ⟨_, hw', _⟩ | ⟨_, _, _, hf⟩
  · rw [hr] at hr'; cases hr'
  · rw [he] at he'; cases he'
  · rw [hw] at hw'; cases hw'
  · exact step_of_wait hf

/-- Settles O6: a code of no step waits, and quiet ports offer neither transfer. -/
theorem withoutATransferTheBlockWaits : Obligations.WithoutATransferTheBlockWaits := by
  refine ⟨fun s hr he hw => step_of_no_transfer hr he hw, fun s hs => ?_⟩
  have quiet : s.ports = Ports.quiet := by simp [State.ports, hs]
  have waits : step s = .next s.dropInput :=
    step_of_no_transfer (by simp [quiet, Ports.quiet]) (by simp [State.takesEvent, quiet, Ports.quiet])
      (by simp [State.takesWord, quiet, Ports.quiet])
  rw [waits, dropInput_of_exhausted hs]

/-- What a step needs of the state (30_encoding.md R62). -/
def NeedsHold (i : Instr) (s : State) : Prop :=
  i = .reset ∨ (i.isEvent = true ∧ s.phase = .idle) ∨ (i = .pxXfer ∧ s.phase = .stream)

/-- The ports ask only for steps that the state can take. -/
theorem fetch_needs {s : State} {i : Instr} (h : fetch s = .step i) : NeedsHold i s := by
  rcases fetch_cases s with ⟨_, _, _, hf⟩ | ⟨he, _, hf⟩ | ⟨_, hw, hf⟩ | ⟨_, _, _, hf⟩ <;> rw [hf] at h <;> cases h
  · exact .inl rfl
  · obtain ⟨_, hidle, _⟩ := (takesEvent_iff s).mp he
    exact .inr (.inl ⟨lineEvent_isEvent _ _, hidle⟩)
  · obtain ⟨_, hstream, _⟩ := (takesWord_iff s).mp hw
    exact .inr (.inr ⟨rfl, hstream⟩)

theorem exec_event_of_idle {i : Instr} {s : State} (hi : i.isEvent = true) (h : s.phase = .idle) :
    ∃ t, exec i s = .next t := by
  cases i with
  | reset => cases hi
  | evUp now => exact ⟨_, takeEvent_of_idle (countEvent satInc now) h⟩
  | evDown now => exact ⟨_, takeEvent_of_idle (countEvent satDec now) h⟩
  | evNop00 now => exact ⟨_, takeEvent_of_idle (unknownLineEvent now) h⟩
  | evNop11 now => exact ⟨_, takeEvent_of_idle (unknownLineEvent now) h⟩
  | pxXfer => cases hi

theorem exec_next_of_needs {i : Instr} {s : State} (h : NeedsHold i s) : ∃ t, exec i s = .next t := by
  rcases h with rfl | ⟨hi, hp⟩ | ⟨rfl, hp⟩
  · exact ⟨s.clearBlock, rfl⟩
  · exact exec_event_of_idle hi hp
  · exact ⟨_, exec_pxXfer_of_stream hp⟩

theorem step_next (s : State) : ∃ t, step s = .next t := by
  cases hf : fetch s with
  | step i =>
    have needs : NeedsHold i s.dropInput := fetch_needs (s := s) hf
    rw [step_of_fetch hf]
    exact exec_next_of_needs needs
  | wait => exact ⟨_, step_of_wait hf⟩
  | unreachable => exact absurd hf (fetch_ne_unreachable s)

/-- Settles O7: a step completes where its needs hold, and the ports ask for no other. -/
theorem noStepCanFail : Obligations.NoStepCanFail :=
  ⟨step_next, fun _ _ h => exec_next_of_needs h⟩

/-- Settles O10: with `rst` set the code is `1xxxx`, whatever its other bits. -/
theorem resetWinsOverEveryOtherStep : Obligations.ResetWinsOverEveryOtherStep := by
  intro s p rest hs hr
  rw [step_of_rst (by rw [ports_of_inputs hs, hr]), dropInput_of_inputs hs]
  rfl

/-- A step opportunity depends on what is fetched and on the state without the ports. -/
theorem step_congr {s s' : State} (hf : fetch s = fetch s') (hd : s.dropInput = s'.dropInput) : step s = step s' := by
  simp only [step, hf, hd]

/-- What is fetched depends on the ports only where they are part of a transfer. -/
theorem fetch_congr {s s' : State} (hrst : s.ports.rst = s'.ports.rst) (hphase : s.phase = s'.phase)
    (hidle : s.ports.rst = false → s.phase = .idle → s.ports.evValid = s'.ports.evValid ∧
      (s.ports.evValid = true → s.ports.evLine = s'.ports.evLine ∧ s.ports.now = s'.ports.now))
    (hstream : s.ports.rst = false → s.phase = .stream → s.ports.pxReady = s'.ports.pxReady) :
    fetch s = fetch s' := by
  cases hr : s.ports.rst with
  | true => rw [fetch_of_rst hr, fetch_of_rst (hrst ▸ hr)]
  | false =>
    have hr' : s'.ports.rst = false := hrst ▸ hr
    cases hp : s.phase with
    | idle =>
      have hp' : s'.phase = .idle := hphase ▸ hp
      obtain ⟨hvalid, hevent⟩ := hidle hr hp
      cases he : s.ports.evValid with
      | true =>
        obtain ⟨hline, hnow⟩ := hevent he
        rw [fetch_of_event hr hp he, fetch_of_event hr' hp' (hvalid ▸ he), hline, hnow]
      | false => rw [fetch_of_idle_quiet hr hp he, fetch_of_idle_quiet hr' hp' (hvalid ▸ he)]
    | stream =>
      have hp' : s'.phase = .stream := hphase ▸ hp
      have hready := hstream hr hp
      cases hx : s.ports.pxReady with
      | true => rw [fetch_of_word hr hp hx, fetch_of_word hr' hp' (hready ▸ hx)]
      | false => rw [fetch_of_stall hr hp hx, fetch_of_stall hr' hp' (hready ▸ hx)]

/-- Settles O11: where the ports agree on what is transferred, the same step is fetched. -/
theorem portsOutsideTransfersHaveNoEffect : Obligations.PortsOutsideTransfersHaveNoEffect := by
  intro s p q rest hrst hidle hstream
  have sameFetch : fetch { s with inputs := p :: rest } = fetch { s with inputs := q :: rest } :=
    fetch_congr hrst rfl hidle hstream
  exact step_congr sameFetch rfl

/-! ### Placed table words -/

/-- A code of a step, presented in the phase it is placed with, is fetched as that step, and that phase is the one the
step needs. -/
theorem fetch_portsOfCode {c : StepCode} {i : Instr} (h : decode c 0#64 = .step i) (s : State) (ins : List Ports) :
    fetch { s with inputs := portsOfCode c :: ins, phase := phaseForCode c s.phase } = .step i ∧
      phaseForCode c s.phase = if i.isEvent then .idle else if i = .pxXfer then .stream else s.phase := by
  obtain ⟨hrow, hnow⟩ := row_of_decode h
  cases i with
  | reset =>
    have bit4 : ∀ c : StepCode, c &&& 0b10000#5 = 0b10000#5 → c.getLsbD 4 = true := by decide
    exact ⟨fetch_of_rst (bit4 c hrow), if_pos (bit4 c hrow)⟩
  | evUp now | evDown now | evNop00 now | evNop11 now =>
    obtain rfl := eq_of_and_full_mask hrow
    obtain rfl : now = 0#64 := hnow rfl
    exact ⟨fetch_of_event rfl rfl rfl, rfl⟩
  | pxXfer =>
    rcases codes_of_word_row c hrow with rfl | rfl | rfl | rfl <;> exact ⟨fetch_of_word rfl rfl rfl, rfl⟩

/-- Settles O12: the placed code is fetched in the phase its step needs, and the schedule moves back to what it was. -/
theorem placedWordIsRunNext : Obligations.PlacedWordIsRunNext := by
  intro s nbits w i h
  obtain ⟨fetched, needed⟩ := fetch_portsOfCode (decode_of_decodeTableWord h) s s.inputs
  have placed : s.withFetchWord nbits w = { s with
      inputs := portsOfCode (BitVec.ofNat 5 (w % 2 ^ nbits)) :: s.inputs
      phase := phaseForCode (BitVec.ofNat 5 (w % 2 ^ nbits)) s.phase } := by
    simp [State.withFetchWord, placeCode, h]
  rw [placed, step_of_fetch fetched, ← needed]
  rfl

/-! ### Events that change nothing, and steps out of phase -/

/-- Settles O18: in `IDLE` an event of an unknown line is taken, and its effect is none. -/
theorem unknownLineEventsChangeNothing : Obligations.UnknownLineEventsChangeNothing := by
  intro now s hp
  exact ⟨takeEvent_of_idle (unknownLineEvent now) hp, takeEvent_of_idle (unknownLineEvent now) hp⟩

/-- Settles O20: `clearBlock` is the five writes. -/
theorem resetSetsTheFiveElements : Obligations.ResetSetsTheFiveElements := fun _ => rfl

theorem exec_event_of_stream {i : Instr} {s : State} (hi : i.isEvent = true) (h : s.phase = .stream) :
    exec i s = .refused .eventWhileStreaming := by
  cases i with
  | reset => cases hi
  | evUp now => exact takeEvent_of_stream (countEvent satInc now) h
  | evDown now => exact takeEvent_of_stream (countEvent satDec now) h
  | evNop00 now => exact takeEvent_of_stream (unknownLineEvent now) h
  | evNop11 now => exact takeEvent_of_stream (unknownLineEvent now) h
  | pxXfer => cases hi

theorem exec_pxXfer_of_idle {s : State} (h : s.phase = .idle) : exec .pxXfer s = .refused .wordWhileIdle := by
  simp [exec, execPxXfer, h]

/-- Settles O21: `takeEvent` refuses in `STREAM`, and the word transfer in `IDLE`. -/
theorem stepsOutOfPhaseAreRefused : Obligations.StepsOutOfPhaseAreRefused :=
  ⟨fun _ _ hi hp => exec_event_of_stream hi hp, fun _ hp => exec_pxXfer_of_idle hp⟩

end Sys2Proof.Machine
end

section
/-! PROOFS. Memory and output signals (20_memory.md, 41_glyph_rom.md, 10_state.md R30), what one step writes to the
counter, the timestamp and the two record channels, and the invariants of 10_state.md section 1. -/

namespace Sys2Proof.Machine

/-! ### Memory and output signals -/

/-- Settles O22: `romRead` selects by the value of its address, and `startRender` writes only what it answers. -/
theorem romReadSelectsAnEntryOrIsInvalid : Obligations.RomReadSelectsAnEntryOrIsInvalid := by
  refine ⟨fun rom d c hd => ?_, romRead_of_ge, fun s d hd => ?_⟩
  · rw [romRead_of_lt rom d (hd ▸ c.isLt)]
    congr 2
    exact Fin.ext hd
  · simp [startRender, romRead_of_ge _ _ hd]

theorem pxWord_of_idle {s : State} (h : s.phase = .idle) : s.pxWord = 0x00000000#32 := by simp [State.pxWord, h]
theorem pxWord_of_stream {s : State} (h : s.phase = .stream) : s.pxWord = s.streamWord := by simp [State.pxWord, h]

/-- Settles O24, signal by signal. -/
theorem outputSignalsFollowThePhase : Obligations.OutputSignalsFollowThePhase := by
  intro s
  exact ⟨evReady_iff s, pxValid_iff s, pxWord_of_idle, pxWord_of_stream, digitBits_toNat s.cnt⟩

/-! ### The words sent -/

@[simp] theorem advanceStream_sends (s : State) : (advanceStream s).sends = s.sends := by rw [advanceStream_frame]
@[simp] theorem advanceStream_logs (s : State) : (advanceStream s).logs = s.logs := by rw [advanceStream_frame]
@[simp] theorem advanceStream_lastTs (s : State) : (advanceStream s).lastTs = s.lastTs := by rw [advanceStream_frame]
@[simp] theorem advanceStream_tsWidth (s : State) : (advanceStream s).tsWidth = s.tsWidth := by
  rw [advanceStream_frame]
@[simp] theorem advanceStream_pix (s : State) : (advanceStream s).pix = s.pix := by rw [advanceStream_frame]
@[simp] theorem advanceStream_inputs (s : State) : (advanceStream s).inputs = s.inputs := by rw [advanceStream_frame]

/-- A word transfer sends the presented word, and nothing else sends (10_state.md R32). -/
theorem step_sends {s t : State} (h : step s = .next t) :
    t.sends = if s.takesWord then s.sends ++ [s.pxWord] else s.sends := by
  rcases step_cases h with ⟨hr, rfl⟩ | ⟨_, hp, _, _, rfl⟩ | ⟨_, hp, _, _, rfl⟩ | ⟨_, hp, _, _, _, rfl⟩ |
    ⟨_, hp, _, rfl⟩ | ⟨hr, hp, hx, rfl⟩ | ⟨_, _, hx, rfl⟩
  · simp [takesWord_of_rst hr]
  · simp [takesWord_of_idle hp]
  · simp [takesWord_of_idle hp]
  · simp [takesWord_of_idle hp]
  · simp [takesWord_of_idle hp]
  · simp [(takesWord_iff s).mpr ⟨hr, hp, hx⟩, pxWord_of_stream hp]
  · simp [State.takesWord, hx]

/-- A step sends nothing, or takes the word that is due. -/
theorem step_sends_cases {s t : State} (h : step s = .next t) :
    t.sends = s.sends ∨ s.phase = .stream ∧ t.sends = s.sends ++ [s.streamWord] := by
  have sends := step_sends h
  cases hw : s.takesWord with
  | true =>
    obtain ⟨_, hstream, _⟩ := (takesWord_iff s).mp hw
    simp only [hw, if_true, pxWord_of_stream hstream] at sends
    exact .inr ⟨hstream, sends⟩
  | false =>
    simp only [hw, Bool.false_eq_true, if_false] at sends
    exact .inl sends

theorem color_cases (b : Bool) : color b = 0x00000000#32 ∨ color b = 0x00190000#32 := by
  revert b
  decide

/-- Settles O26: a word is sent as the due word, which is a color of one bit. -/
theorem everyWordIsOffOrDimRed : Obligations.EveryWordIsOffOrDimRed := by
  intro s t h w hw
  rcases step_sends_cases h with same | ⟨_, sent⟩
  · exact .inl (same ▸ hw)
  · rw [sent, List.mem_append, List.mem_singleton] at hw
    exact hw.imp_right fun (due : w = s.streamWord) => due ▸ color_cases _

/-! ### The counter, the timestamp and the log -/

/-- What a counting event writes of these three: nothing, or, accepted, the time and perhaps a new value with its log
record. -/
theorem countEvent_registers (delta : Digit → Digit) (now : Timestamp) (s : State) :
    ((countEvent delta now s).cnt = s.cnt ∧ (countEvent delta now s).lastTs = s.lastTs ∧
      (countEvent delta now s).logs = s.logs) ∨
    (OutsideWindow s.tsWidth now s.lastTs ∧ (countEvent delta now s).lastTs = sampleNow s.tsWidth now ∧
      ((countEvent delta now s).cnt = s.cnt ∧ (countEvent delta now s).logs = s.logs ∨
        (countEvent delta now s).cnt ≠ s.cnt ∧
          (countEvent delta now s).logs = s.logs ++ [(countEvent delta now s).cnt])) := by
  rcases countEvent_cases delta now s with ⟨_, e⟩ | ⟨hw, _, e⟩ | ⟨hw, hd, e⟩
  · exact .inl (by simp [e])
  · exact .inr ⟨hw, by simp [e]⟩
  · exact .inr ⟨hw, by simp [e, hd]⟩

/-- Everything one step can write to the counter, the timestamp and the log. -/
theorem step_registers {s t : State} (h : step s = .next t) :
    (s.ports.rst = true ∧ t = s.dropInput.clearBlock) ∨
    (t.cnt = s.cnt ∧ t.lastTs = s.lastTs ∧ t.logs = s.logs) ∨
    (s.takesEvent = true ∧ (s.ports.evLine = 0b01#2 ∨ s.ports.evLine = 0b10#2) ∧
      OutsideWindow s.tsWidth s.ports.now s.lastTs ∧ t.lastTs = sampleNow s.tsWidth s.ports.now ∧
      (t.cnt = s.cnt ∧ t.logs = s.logs ∨ t.cnt ≠ s.cnt ∧ t.logs = s.logs ++ [t.cnt])) := by
  rcases step_cases h with ⟨hr, rfl⟩ | ⟨hr, hp, he, hl, rfl⟩ | ⟨hr, hp, he, hl, rfl⟩ | ⟨_, _, _, _, _, rfl⟩ |
    ⟨_, _, _, rfl⟩ | ⟨_, _, _, rfl⟩ | ⟨_, _, _, rfl⟩
  · exact .inl ⟨hr, rfl⟩
  · exact .inr ((countEvent_registers satInc s.ports.now s.dropInput).imp_right fun accepted =>
      ⟨(takesEvent_iff s).mpr ⟨hr, hp, he⟩, .inl hl, accepted⟩)
  · exact .inr ((countEvent_registers satDec s.ports.now s.dropInput).imp_right fun accepted =>
      ⟨(takesEvent_iff s).mpr ⟨hr, hp, he⟩, .inr hl, accepted⟩)
  · exact .inr (.inl ⟨rfl, rfl, rfl⟩)
  · exact .inr (.inl ⟨rfl, rfl, rfl⟩)
  · exact .inr (.inl (by simp))
  · exact .inr (.inl ⟨rfl, rfl, rfl⟩)

/-- Settles O33: the second case of `step_registers` changes neither register. -/
theorem onlyEventsAndResetWriteTheDataRegisters : Obligations.OnlyEventsAndResetWriteTheDataRegisters := by
  intro s t h hchanged
  rcases step_registers h with ⟨hr, _⟩ | ⟨hcnt, hts, _⟩ | ⟨ht, hl, hw, hts, _⟩
  · exact .inl hr
  · exact absurd hchanged (by simp [hcnt, hts])
  · exact .inr ⟨ht, hl, hw, hts⟩

/-- A step logs exactly the new value of a counter that an event changed (20_memory.md R46). -/
theorem step_logs {s t : State} (h : step s = .next t) :
    t.logs = if s.takesEvent = true ∧ t.cnt ≠ s.cnt then s.logs ++ [t.cnt] else s.logs := by
  rcases step_registers h with ⟨hr, rfl⟩ | ⟨hcnt, _, hlogs⟩ | ⟨ht, _, _, _, ⟨hcnt, hlogs⟩ | ⟨hcnt, hlogs⟩⟩
  · simp [takesEvent_of_rst hr]
  · simp [hcnt, hlogs]
  · simp [hcnt, hlogs]
  · simp [ht, hcnt, hlogs]

/-- Settles O25: `step_sends` and `step_logs`, and the log signal shows the record that the log grew by. -/
theorem recordsOfAStep : Obligations.RecordsOfAStep := by
  intro s t h
  have logs := step_logs h
  refine ⟨step_sends h, fun hc => ?_, fun hc => ?_⟩
  · rw [if_pos hc] at logs
    exact ⟨logs, by simp [logSignal, logs, State.cntOut]⟩
  · rw [if_neg hc] at logs
    exact ⟨logs, by simp [logSignal, logs]⟩

/-! ### Invariants -/

theorem step_tsWidth {s t : State} (h : step s = .next t) : t.tsWidth = s.tsWidth := by
  rcases step_cases h with ⟨_, rfl⟩ | ⟨_, _, _, _, rfl⟩ | ⟨_, _, _, _, rfl⟩ | ⟨_, _, _, _, _, rfl⟩ |
    ⟨_, _, _, rfl⟩ | ⟨_, _, _, rfl⟩ | ⟨_, _, _, rfl⟩ <;> simp

/-- Settles O28: a step leaves `LAST_TS`, clears it, or writes a time taken at the width. -/
theorem stepKeepsTheTimestampWithinItsWidth : Obligations.StepKeepsTheTimestampWithinItsWidth := by
  intro s t hlt h
  refine ⟨step_tsWidth h, ?_⟩
  rw [step_tsWidth h]
  rcases step_registers h with ⟨_, rfl⟩ | ⟨_, hts, _⟩ | ⟨_, _, _, hts, _⟩
  · exact Nat.two_pow_pos _
  · rwa [hts]
  · rw [hts]; exact sampleNow_lt _ _

/-- I1 and I2 hold by the types of `CNT` and `K`; what is left is I3, that the latch holds the glyph of the counter. -/
theorem coherent_iff (s : State) : s.Coherent ↔ (s.phase = .stream → s.pix = s.glyphRom.get s.cnt) := by
  have i1 : s.cntOut.toNat ≤ 9 := by
    rw [State.cntOut, digitBits_toNat]; omega
  have i2 : s.k.val ≤ 24 := by omega
  have i3 : romRead s.glyphRom s.cntOut = some s.pix ↔ s.pix = s.glyphRom.get s.cnt := by
    rw [State.cntOut, romRead_digitBits, Option.some_inj, eq_comm]
  exact ⟨fun ⟨_, _, h⟩ hs => i3.mp (h hs), fun h => ⟨i1, fun _ => i2, fun hs => i3.mpr (h hs)⟩⟩

theorem coherent_of_idle {s : State} (h : s.phase = .idle) : s.Coherent :=
  (coherent_iff s).mpr fun hs => by rw [h] at hs; cases hs

/-- A counting event that begins a render latches the glyph of the value it counts to. -/
theorem countEvent_coherent (delta : Digit → Digit) (now : Timestamp) {s : State} (hp : s.phase = .idle) :
    (countEvent delta now s).Coherent := by
  rcases countEvent_cases delta now s with ⟨_, e⟩ | ⟨_, _, e⟩ | ⟨_, _, e⟩
  · rw [e]; exact coherent_of_idle hp
  · rw [e]; exact coherent_of_idle (s := s.setLastTs now) hp
  · rw [e]; exact (coherent_iff _).mpr fun _ => rfl

/-- A word transfer keeps the latch, the ROM and the counter, and goes on in `STREAM` only from `STREAM`. -/
theorem advanceStream_coherent {s : State} (hs : s.Coherent) (hp : s.phase = .stream) : (advanceStream s).Coherent := by
  rw [coherent_iff] at hs ⊢
  intro _
  simpa using hs hp

/-- Settles O27: a step goes to `IDLE`, begins the render of the counter it writes, or keeps what I3 speaks of. -/
theorem stepKeepsTheStateCoherent : Obligations.StepKeepsTheStateCoherent := by
  intro s t hs h
  rcases step_cases h with ⟨_, rfl⟩ | ⟨_, hp, _, _, rfl⟩ | ⟨_, hp, _, _, rfl⟩ | ⟨_, _, _, _, _, rfl⟩ |
    ⟨_, _, _, rfl⟩ | ⟨_, hp, _, rfl⟩ | ⟨_, _, _, rfl⟩
  · exact coherent_of_idle rfl
  · exact countEvent_coherent satInc _ (s := s.dropInput) hp
  · exact countEvent_coherent satDec _ (s := s.dropInput) hp
  · exact hs
  · exact hs
  · exact advanceStream_coherent (s := s.dropInput.send s.streamWord) hs hp
  · exact hs

/-- Settles O29: the reset state is idle, and its `LAST_TS` is 0. -/
theorem resetStateIsCoherent : Obligations.ResetStateIsCoherent :=
  fun _ _ _ => ⟨coherent_of_idle rfl, Nat.two_pow_pos _⟩

/-- Settles O30: the word that is due is a color of the latch, which holds the glyph of the counter by I3. -/
theorem wordsEncodeTheCounterValue : Obligations.WordsEncodeTheCounterValue := by
  intro s t hs h
  refine (step_sends_cases h).imp_right fun ⟨hstream, sent⟩ => ?_
  have latched : s.pix = s.glyphRom.get s.cnt := (coherent_iff s).mp hs hstream
  rw [sent, ← latched]
  rfl

end Sys2Proof.Machine
end

section
/-! PROOFS. Time (40_debounce.md sections 1 and 5): the elapsed time at the timestamp's width, and the windows that
follow from it: after an accepted press, after a reset, and between the changing events of a run. -/

namespace Sys2Proof.Machine

/-! ### The timestamp's width -/

/-- Where time has run backwards the elapsed time is that far short of a full turn (40_debounce.md R65). -/
theorem elapsedUs_of_lt {w : TsWidth} {now last : Timestamp} (hnow : now.toNat < 2 ^ w.val)
    (hlast : last.toNat < 2 ^ w.val) (h : now.toNat < last.toNat) :
    elapsedUs w now last = 2 ^ w.val - (last.toNat - now.toNat) := by
  refine elapsedUs_eq (by omega) ?_
  rw [show 2 ^ w.val - (last.toNat - now.toNat) + last.toNat = now.toNat + 2 ^ w.val by omega, Nat.add_mod_right]

/-- Settles O14: `elapsedUs` in its two orders, and the window of `Accept` on the second. -/
theorem elapsedWrapsAtTheTimestampWidth : Obligations.ElapsedWrapsAtTheTimestampWidth := by
  intro w now last hnow hlast
  refine ⟨fun h => ?_, fun h => ?_, fun h hgap => ?_⟩
  · have whole := sampleNow_of_lt hnow
    rw [elapsed_toNat, elapsedUs_of_le (by rwa [whole]), whole]
  · rw [elapsed_toNat, elapsedUs_of_lt hnow hlast h]
  · rw [accept_iff_outsideWindow, OutsideWindow, elapsedUs_of_lt hnow hlast h]
    omega

/-- A counting event sees of `now` only what is taken at the width. -/
theorem countEvent_congr (delta : Digit → Digit) {now now' : Timestamp} {s : State}
    (h : sampleNow s.tsWidth now = sampleNow s.tsWidth now') : countEvent delta now s = countEvent delta now' s := by
  have sameWindow : accept s.tsWidth now s.lastTs = accept s.tsWidth now' s.lastTs := by
    rw [Bool.eq_iff_iff, accept_iff_outsideWindow, accept_iff_outsideWindow, OutsideWindow, OutsideWindow,
      elapsedUs_congr h rfl]
  have sameStamp : s.setLastTs now = s.setLastTs now' := by rw [State.setLastTs, State.setLastTs, h]
  rw [countEvent, countEvent, sameWindow, sameStamp]

theorem buttonEvent_isEvent (up : Bool) (now : Timestamp) : (buttonEvent up now).isEvent = true := by
  cases up <;> rfl

/-- Settles O15: `sampleNow` is the value modulo the width, and an event of a known line sees nothing else of `now`. -/
theorem nowIsTakenAtTheTimestampWidth : Obligations.NowIsTakenAtTheTimestampWidth := by
  refine ⟨sampleNow_toNat, fun w now hw => sampleNow_of_lt ?_, fun up now now' s hmod => ?_⟩
  · rcases hw with h64 | hlt
    · rw [h64]; exact now.isLt
    · exact hlt
  · have same : sampleNow s.tsWidth now = sampleNow s.tsWidth now' := by rw [sampleNow, sampleNow, hmod]
    cases hp : s.phase with
    | idle => rw [exec_buttonEvent_of_idle up now hp, exec_buttonEvent_of_idle up now' hp, countEvent_congr _ same]
    | stream =>
      rw [exec_event_of_stream (buttonEvent_isEvent up now) hp, exec_event_of_stream (buttonEvent_isEvent up now') hp]

/-! ### The window after an accepted press -/

/-- Less than a window after an accepted time, either line is inside the window. -/
theorem inside_after_stamp {w : TsWidth} {now₁ now₂ : Timestamp} (hle : now₁.toNat ≤ now₂.toNat)
    (hnear : now₂.toNat - now₁.toNat < 75000) : ¬ OutsideWindow w now₂ (sampleNow w now₁) := by
  have stamped : elapsedUs w now₂ (sampleNow w now₁) = elapsedUs w now₂ now₁ :=
    elapsedUs_congr rfl (sampleNow_sampleNow w now₁)
  have near := elapsedUs_le_sub (w := w) hle
  rw [OutsideWindow, stamped]
  omega

/-- Settles O38: an accepted first press has stamped its time, so the second is inside the window; a first press that
was not accepted has changed nothing. -/
theorem acceptedPressBlocksBothLines : Obligations.AcceptedPressBlocksBothLines := by
  intro up₁ up₂ now₁ now₂ s t u v h₁ _ hts hwidth hle hnear h₂
  obtain ⟨_, rfl⟩ := exec_buttonEvent_next h₁
  obtain ⟨_, rfl⟩ := exec_buttonEvent_next h₂
  have blocked (hw : OutsideWindow s.tsWidth now₁ s.lastTs) : countEvent (buttonDelta up₂) now₂ u = u := by
    refine countEvent_of_inside ?_
    rw [hwidth, hts, countEvent_tsWidth, countEvent_lastTs_of_outside hw]
    exact inside_after_stamp hle hnear
  refine ⟨blocked, ?_⟩
  by_cases hw : OutsideWindow s.tsWidth now₁ s.lastTs
  · exact .inr (by rw [blocked hw])
  · exact .inl (by rw [countEvent_of_inside hw])

/-! ### Schedules on which the block waits -/

/-- Over entries on each of which the block waits, a run only moves the schedule on. -/
theorem run_of_waiting {s : State} {ins : List Ports} (rest : List Ports)
    (hwait : ∀ p ∈ ins, ∀ tl, step { s with inputs := p :: tl } = .next { s with inputs := tl }) :
    run ins.length { s with inputs := ins ++ rest } = .next { s with inputs := rest } := by
  induction ins with
  | nil => exact run_zero _
  | cons p ins ih =>
    obtain ⟨first, later⟩ := List.forall_mem_cons.mp hwait
    exact (run_succ_of_step ins.length (first (ins ++ rest))).trans (ih later)

/-- Settles O36: in `STREAM` the block waits on every entry without `px_ready`. -/
theorem presentedWordIsHeldWhileThePeripheralStalls : Obligations.PresentedWordIsHeldWhileThePeripheralStalls := by
  intro s ins rest hp hstall
  refine ⟨_, run_of_waiting rest fun p hmem tl => ?_, rfl, pxWord_of_stream hp⟩
  obtain ⟨hr, hx⟩ := hstall p hmem
  exact step_of_stall (s := { s with inputs := p :: tl }) hr hp hx

/-! ### The window after a reset -/

/-- With `LAST_TS` = 0, an event with `now` below the window is inside it at every width. -/
theorem inside_at_start {w : TsWidth} {now : Timestamp} (h : now.toNat < 75000) :
    ¬ OutsideWindow w now lastTsReset := by
  have near := elapsedUs_le_sub (w := w) (last := lastTsReset) (Nat.zero_le now.toNat)
  have zero : lastTsReset.toNat = 0 := rfl
  rw [OutsideWindow]
  omega

/-- In the reset state the block waits on every entry without reset and with `now` below the window. -/
theorem step_of_start_up {s : State} (hts : s.lastTs = lastTsReset) (hp : s.phase = .idle) (hr : s.ports.rst = false)
    (hnow : s.ports.now.toNat < 75000) : step s = .next s.dropInput := by
  have inside : ¬ OutsideWindow s.tsWidth s.ports.now s.lastTs := hts ▸ inside_at_start hnow
  obtain ⟨t, h⟩ := step_next s
  rw [h]
  rcases step_idle_cases h hr hp with waits | ⟨_, _, up⟩ | ⟨_, _, down⟩
  · rw [waits]
  · rw [up, countEvent_of_inside (s := s.dropInput) inside]
  · rw [down, countEvent_of_inside (s := s.dropInput) inside]

/-- Settles O39: the reset, and then entries on each of which the reset state waits. -/
theorem startUpWindowRejectsEveryEvent : Obligations.StartUpWindowRejectsEveryEvent := by
  intro s r evs rest hs hr hevs
  have reset : step s = .next { s.clearBlock with inputs := evs ++ rest } := by
    rw [step_of_rst (by rw [ports_of_inputs hs, hr]), dropInput_of_inputs hs]
    rfl
  rw [run_succ_of_step _ reset]
  refine run_of_waiting (s := s.clearBlock) rest fun p hmem tl => ?_
  obtain ⟨hrst, hnow⟩ := hevs p hmem
  exact step_of_start_up (s := { s.clearBlock with inputs := p :: tl }) rfl rfl hrst hnow

/-! ### Runs without a reset -/

theorem step_inputs {s t : State} (h : step s = .next t) : t.inputs = s.inputs.tail := by
  rcases step_cases h with ⟨_, rfl⟩ | ⟨_, _, _, _, rfl⟩ | ⟨_, _, _, _, rfl⟩ | ⟨_, _, _, _, _, rfl⟩ |
    ⟨_, _, _, rfl⟩ | ⟨_, _, _, rfl⟩ | ⟨_, _, _, rfl⟩ <;> simp

/-- Of a schedule without reset for `n + 1` steps, the first step takes no reset, and `n` steps without are left. -/
theorem no_reset_first_and_later {s : State} {n : Nat} (h : ∀ p ∈ s.inputs.take (n + 1), p.rst = false) :
    s.ports.rst = false ∧ ∀ p ∈ s.inputs.tail.take n, p.rst = false := by
  cases hs : s.inputs with
  | nil => exact ⟨by simp [State.ports, hs, Ports.quiet], by simp⟩
  | cons p rest =>
    rw [hs, List.take_succ_cons] at h
    obtain ⟨first, later⟩ := List.forall_mem_cons.mp h
    exact ⟨(ports_of_inputs hs).symm ▸ first, later⟩

/-- What every step without reset keeps, every run without reset keeps. -/
theorem run_without_reset_keeps {Inv : State → Prop}
    (hstep : ∀ {s t : State}, Inv s → s.ports.rst = false → step s = .next t → Inv t) :
    ∀ {n : Nat} {s t : State}, Inv s → (∀ p ∈ s.inputs.take n, p.rst = false) → run n s = .next t → Inv t := by
  intro n
  induction n with
  | zero =>
    intro s t hs _ h
    rw [run_zero] at h
    injection h with h
    exact h ▸ hs
  | succ n ih =>
    intro s t hs hr h
    obtain ⟨first, later⟩ := no_reset_first_and_later hr
    obtain ⟨u, hu, ht⟩ := run_succ_next h
    exact ih (hstep hs first hu) ((step_inputs hu).symm ▸ later) ht

/-- From `s` to `t` the timestamp has grown by at least a window for every value logged. -/
def WindowPerLog (s t : State) : Prop :=
  s.logs.length ≤ t.logs.length ∧ s.lastTs.toNat + 75000 * (t.logs.length - s.logs.length) ≤ t.lastTs.toNat

theorem WindowPerLog.refl (s : State) : WindowPerLog s s := ⟨le_rfl, by omega⟩

theorem WindowPerLog.trans {s t u : State} (hst : WindowPerLog s t) (htu : WindowPerLog t u) : WindowPerLog s u := by
  unfold WindowPerLog at *
  omega

/-- One step without reset under monotonic time: an accepted event lies a window after the timestamp it replaces, and
the last `now` taken stays a bound of the timestamp. -/
theorem step_windowPerLog {s t : State} {low : Timestamp} (h : step s = .next t) (hr : s.ports.rst = false)
    (hlow : s.lastTs.toNat ≤ low.toNat)
    (hmono : s.takesEvent = true → low.toNat ≤ (sampleNow s.tsWidth s.ports.now).toNat) :
    WindowPerLog s t ∧
      t.lastTs.toNat ≤ (if s.takesEvent then sampleNow s.tsWidth s.ports.now else low).toNat := by
  rcases step_registers h with ⟨hr', _⟩ | ⟨_, hts, hlogs⟩ | ⟨ht, _, hw, hts, logged⟩
  · rw [hr] at hr'; cases hr'
  · refine ⟨⟨by rw [hlogs], by rw [hlogs, hts]; omega⟩, ?_⟩
    rw [hts]
    split
    · next ht => exact hlow.trans (hmono ht)
    · exact hlow
  · have le : s.lastTs.toNat ≤ (sampleNow s.tsWidth s.ports.now).toNat := hlow.trans (hmono ht)
    rw [OutsideWindow, elapsedUs_of_le le] at hw
    refine ⟨?_, by rw [hts, if_pos ht]⟩
    rcases logged with ⟨_, hlogs⟩ | ⟨_, hlogs⟩
    · rw [WindowPerLog, hts, hlogs]
      omega
    · rw [WindowPerLog, hts, hlogs, List.length_append, List.length_singleton]
      omega

theorem run_windowPerLog {n : Nat} {s t : State} {low : Timestamp} (hlow : s.lastTs.toNat ≤ low.toNat)
    (hmono : MonotoneTime n low s) (hr : ∀ p ∈ s.inputs.take n, p.rst = false) (h : run n s = .next t) :
    WindowPerLog s t := by
  induction n generalizing s low with
  | zero =>
    rw [run_zero] at h
    injection h with h
    exact h ▸ .refl s
  | succ n ih =>
    obtain ⟨first, later⟩ := no_reset_first_and_later hr
    obtain ⟨u, hu, ht⟩ := run_succ_next h
    obtain ⟨now_mono, rest_mono⟩ := hmono
    simp only [hu, first, Bool.false_eq_true, if_false] at rest_mono
    obtain ⟨grown, low'⟩ := step_windowPerLog hu first hlow now_mono
    exact grown.trans (ih low' rest_mono ((step_inputs hu).symm ▸ later) ht)

/-- Settles O41: each step keeps `WindowPerLog`, the timestamp itself being the first bound on time. -/
theorem changingEventsAreAWindowApart : Obligations.ChangingEventsAreAWindowApart :=
  fun _ _ _ hmono hr h => run_windowPerLog le_rfl hmono hr h

end Sys2Proof.Machine
end

section
/-! PROOFS. Reset and renders (70_reset_and_hazards.md section 1): a render that a reset cuts short, and the first
render after a reset. -/

namespace Sys2Proof.Machine

/-- Settles O35: as many words of the render are sent as there were readies, and the reset leaves the channels alone. -/
theorem resetCutsTheRenderShort : Obligations.ResetCutsTheRenderShort := by
  intro up now s t ins r rest h hc hins hcount hr
  obtain ⟨hphase, hk, hpix, hsends⟩ := changing_buttonEvent_begins_render h hc
  obtain ⟨k, sent⟩ : ∃ k : WordIndex, k.val = ins.countP Ports.pxReady := ⟨⟨_, Nat.lt_succ_of_le hcount⟩, rfl⟩
  have cut := run_afterWords hphase (r :: rest) (j := 0) (k := k) hins (by simp [sent])
  have reset : step (t.afterWords k (r :: rest)) = .next (t.afterWords k rest).clearBlock := step_of_rst hr
  rw [← afterWords_zero hk, run_add _ 1 cut, run_succ_of_step 0 reset, run_zero, ← hsends, ← hpix, ← sent]
  rfl

/-! ### The first render after a reset -/

/-- How far the block has come in `t` since it was reset in `s`: nothing shown yet, the render of 1 in progress or
complete, or a further value logged. -/
inductive FirstRender (s t : State) : Prop
  | notBegun (hp : t.phase = .idle) (hcnt : t.cnt = 0) (hrom : t.glyphRom = s.glyphRom) (hlogs : t.logs = s.logs)
      (hsends : t.sends = s.sends)
  | inProgress (hp : t.phase = .stream) (hpix : t.pix = s.glyphRom.get 1) (hlogs : t.logs = s.logs ++ [1])
      (hsends : t.sends = s.sends ++ (glyphWords (s.glyphRom.get 1)).take t.k.val)
  | complete (hp : t.phase = .idle) (hlogs : t.logs = s.logs ++ [1])
      (hsends : t.sends = s.sends ++ glyphWords (s.glyphRom.get 1))
  | followed (c : Digit) (l : List Digit) (ws : List ColorWord) (hlogs : t.logs = s.logs ++ 1 :: c :: l)
      (hsends : t.sends = s.sends ++ glyphWords (s.glyphRom.get 1) ++ ws)

theorem step_sends_of_idle {t u : State} (h : step t = .next u) (hp : t.phase = .idle) : u.sends = t.sends := by
  rw [step_sends h, takesWord_of_idle hp, if_neg Bool.false_ne_true]

/-- A counting event that leaves the counter begins no render. -/
theorem countEvent_phase_of_cnt_eq {delta : Digit → Digit} {now : Timestamp} {s : State}
    (h : (countEvent delta now s).cnt = s.cnt) : (countEvent delta now s).phase = s.phase := by
  rcases countEvent_cases delta now s with ⟨_, e⟩ | ⟨_, _, e⟩ | ⟨_, hd, e⟩
  · rw [e]
  · rw [e, State.setLastTs_phase]
  · exact absurd (by simpa [e] using h) hd

/-- In `IDLE` a step that leaves the counter stays in `IDLE` and logs nothing. -/
theorem step_of_idle_same_cnt {t u : State} (h : step t = .next u) (hr : t.ports.rst = false) (hp : t.phase = .idle)
    (hc : u.cnt = t.cnt) : u.phase = .idle ∧ u.logs = t.logs := by
  have logs : u.logs = t.logs := by rw [step_logs h, if_neg fun ⟨_, hne⟩ => hne hc]
  refine ⟨?_, logs⟩
  rcases step_idle_cases h hr hp with rfl | ⟨_, _, rfl⟩ | ⟨_, _, rfl⟩
  · exact hp
  · exact (countEvent_phase_of_cnt_eq hc).trans hp
  · exact (countEvent_phase_of_cnt_eq hc).trans hp

/-- A step without reset that changes the counter logs its new value. -/
theorem step_logs_of_cnt_ne {t u : State} (h : step t = .next u) (hr : t.ports.rst = false) (hc : u.cnt ≠ t.cnt) :
    u.logs = t.logs ++ [u.cnt] := by
  obtain ⟨ht, _⟩ := theLineDecidesTheDirection.2 t u h hr hc
  rw [step_logs h, if_pos ⟨ht, hc⟩]

theorem step_appends_logs {t u : State} (h : step t = .next u) : ∃ l, u.logs = t.logs ++ l := by
  rw [step_logs h]
  split
  · exact ⟨_, rfl⟩
  · exact ⟨[], (List.append_nil _).symm⟩

theorem step_appends_sends {t u : State} (h : step t = .next u) : ∃ ws, u.sends = t.sends ++ ws := by
  rw [step_sends h]
  split
  · exact ⟨_, rfl⟩
  · exact ⟨[], (List.append_nil _).symm⟩

/-- After a word of the render of 1, that render is in progress by one word more, or complete. -/
theorem firstRender_word {s t : State} (hp : t.phase = .stream) (hpix : t.pix = s.glyphRom.get 1)
    (hlogs : t.logs = s.logs ++ [1])
    (hsends : t.sends = s.sends ++ (glyphWords (s.glyphRom.get 1)).take t.k.val) :
    FirstRender s (advanceStream (t.dropInput.send t.streamWord)) := by
  have sent : t.sends ++ [t.streamWord] = s.sends ++ (glyphWords (s.glyphRom.get 1)).take (t.k.val + 1) := by
    rw [hsends, List.append_assoc, glyphWords_take_succ, ← hpix]
    rfl
  by_cases hlt : t.k.val < 24
  · rw [advanceStream_of_lt (s := t.dropInput.send t.streamWord) hlt]
    refine .inProgress hp hpix hlogs (sent.trans ?_)
    rw [nextWord_k_val (s := t.dropInput.send t.streamWord) hlt]
    rfl
  · have last : t.k.val = 24 := by omega
    rw [advanceStream_of_last (s := t.dropInput.send t.streamWord) (Fin.ext last)]
    refine .complete rfl hlogs (sent.trans ?_)
    rw [last, List.take_of_length_le (by simp)]

/-- Every step without reset goes on within the first render, or beyond it. -/
theorem step_firstRender {s t u : State} (hs : FirstRender s t) (hr : t.ports.rst = false) (h : step t = .next u) :
    FirstRender s u := by
  cases hs with
  | notBegun hp hcnt hrom hlogs hsends =>
    have sends := (step_sends_of_idle h hp).trans hsends
    by_cases hc : u.cnt = t.cnt
    · obtain ⟨idle, logs⟩ := step_of_idle_same_cnt h hr hp hc
      exact .notBegun idle (hc.trans hcnt) ((step_glyphRom h).trans hrom) (logs.trans hlogs) sends
    · obtain ⟨_, _, counted, _, stream, k, pix⟩ := theLineDecidesTheDirection.2 t u h hr hc
      have one : u.cnt = 1 := by
        rcases counted with ⟨_, up⟩ | ⟨_, down⟩
        · exact Fin.ext (by rw [up, hcnt]; rfl)
        · rw [hcnt] at down
          exact absurd down (Nat.succ_ne_zero _)
      refine .inProgress stream ?_ ?_ ?_
      · rw [pix, one, hrom]
      · rw [step_logs_of_cnt_ne h hr hc, one, hlogs]
      · simp [sends, k]
  | inProgress hp hpix hlogs hsends =>
    rcases step_stream_cases h hr hp with ⟨_, rfl⟩ | ⟨_, rfl⟩
    · exact .inProgress hp hpix hlogs hsends
    · exact firstRender_word hp hpix hlogs hsends
  | complete hp hlogs hsends =>
    have sends := (step_sends_of_idle h hp).trans hsends
    by_cases hc : u.cnt = t.cnt
    · obtain ⟨idle, logs⟩ := step_of_idle_same_cnt h hr hp hc
      exact .complete idle (logs.trans hlogs) sends
    · refine .followed u.cnt [] [] ?_ ?_
      · rw [step_logs_of_cnt_ne h hr hc, hlogs, List.append_assoc]; rfl
      · rw [sends, List.append_nil]
  | followed c l ws hlogs hsends =>
    obtain ⟨l', logs⟩ := step_appends_logs h
    obtain ⟨ws', sends⟩ := step_appends_sends h
    exact .followed c (l ++ l') (ws ++ ws') (by simp [logs, hlogs]) (by simp [sends, hsends])

/-- Settles O40: a reset leaves the first render not begun, and every step without reset keeps `FirstRender`. -/
theorem firstRenderAfterResetIsOfDigitOne : Obligations.FirstRenderAfterResetIsOfDigitOne := by
  intro n s r t h hr hrun
  obtain rfl : s.clearBlock = r := Host.Outcome.next.inj h
  have started : FirstRender s s.clearBlock := .notBegun rfl rfl rfl rfl rfl
  cases run_without_reset_keeps step_firstRender started hr hrun with
  | notBegun _ _ _ hlogs hsends => exact .inl ⟨hlogs, hsends⟩
  | inProgress _ _ hlogs hsends => exact .inr (.inl ⟨hlogs, t.k.val, t.k.isLt.le, hsends⟩)
  | complete _ hlogs hsends =>
    exact .inr (.inl ⟨hlogs, 25, le_rfl, hsends.trans (by rw [List.take_of_length_le (by simp)])⟩)
  | followed c l ws hlogs hsends => exact .inr (.inr ⟨c, l, ws, hlogs, hsends⟩)

end Sys2Proof.Machine
end

section
/-! PROOFS. Environment and event programs (10_state.md section 3, 30_encoding.md section 4): the edge detector, the
steps of a `DRAIN`, and that a program's schedule of ports runs the program. -/

namespace Sys2Proof.Machine

/-! ### The edge detector -/

theorem fallingEdge_iff (before after : Bool) : fallingEdge before after = true ↔ before = true ∧ after = false := by
  simp [fallingEdge]

/-- Settles O42: each line contributes its own code, and only when it falls. -/
theorem eachFallingEdgeIsOneEventOfItsLine : Obligations.EachFallingEdgeIsOneEventOfItsLine := by
  intro before after line
  constructor
  · simp only [edgeEvents, List.mem_append, List.mem_ite_nil_right, List.mem_singleton, fallingEdge_iff]
    tauto
  · unfold edgeEvents
    split_ifs <;> decide

/-! ### The steps of a `DRAIN` -/

theorem execSteps_cons {i : Instr} {s t : State} (is : List Instr) (h : exec i s = .next t) :
    execSteps (i :: is) s = execSteps is t := by
  simp [execSteps, h]

theorem execSteps_cons_next {i : Instr} {is : List Instr} {s u : State} (h : execSteps (i :: is) s = .next u) :
    ∃ t, exec i s = .next t ∧ execSteps is t = .next u := by
  cases hi : exec i s with
  | next t => exact ⟨t, rfl, execSteps_cons is hi ▸ h⟩
  | fault f => exact nomatch f
  | refused r => simp [execSteps, hi] at h

/-- The end of a render in progress in `s`, with the words from `K` on sent. -/
def State.drained (s : State) : State :=
  { s with phase := .idle, k := 0, sends := s.sends ++ (glyphWords s.pix).drop s.k.val }

theorem glyphWords_drop (g : Glyph) (j : WordIndex) :
    (glyphWords g).drop j.val = color (g.getLsbD (24 - j.val)) :: (glyphWords g).drop (j.val + 1) := by
  rw [List.drop_eq_getElem_cons (by simp)]
  simp [glyphWords]

/-- The word at `K` = 24 is the only one left. -/
theorem finishRender_send_of_last {s : State} (hk : s.k = 24) :
    (s.send s.streamWord).finishRender = s.drained := by
  have due : (glyphWords s.pix).drop s.k.val = [s.streamWord] := by
    rw [glyphWords_drop, List.drop_of_length_le (by simp [hk])]
    rfl
  rw [State.drained, due]
  rfl

/-- A word sent before the last is one that the end of the render would have sent. -/
theorem drained_nextWord_send {s : State} (hk : s.k.val < 24) :
    (s.send s.streamWord).nextWord.drained = s.drained := by
  have due : (glyphWords s.pix).drop s.k.val = s.streamWord :: (glyphWords s.pix).drop (s.k.val + 1) :=
    glyphWords_drop s.pix s.k
  have moved : (s.send s.streamWord).nextWord.k.val = s.k.val + 1 := nextWord_k_val (s := s.send s.streamWord) hk
  rw [State.drained, State.drained, moved, due, List.append_cons]
  rfl

/-- The word steps that are left complete the render. -/
theorem execSteps_words {n : Nat} {s : State} (hp : s.phase = .stream) (hn : s.k.val + n = 25) :
    execSteps (List.replicate n .pxXfer) s = .next s.drained := by
  induction n generalizing s with
  | zero => omega
  | succ n ih =>
    rw [List.replicate_succ, execSteps_cons _ (exec_pxXfer_of_stream hp)]
    by_cases hlt : s.k.val < 24
    · have moved : (s.send s.streamWord).nextWord.k.val = s.k.val + 1 := nextWord_k_val (s := s.send s.streamWord) hlt
      rw [advanceStream_of_lt (s := s.send s.streamWord) hlt,
        ih (s := (s.send s.streamWord).nextWord) hp (by omega), drained_nextWord_send hlt]
    · obtain ⟨hk, rfl⟩ : s.k.val = 24 ∧ n = 0 := by omega
      have last : s.k = 24 := Fin.ext hk
      rw [advanceStream_of_last (s := s.send s.streamWord) last, finishRender_send_of_last last]
      rfl

theorem wordsLeft_of_idle {s : State} (h : s.phase = .idle) : wordsLeft s = 0 := by simp [wordsLeft, h]
theorem wordsLeft_of_stream {s : State} (h : s.phase = .stream) : wordsLeft s = 25 - s.k.val := by simp [wordsLeft, h]

theorem runDrain_of_idle {s : State} (h : s.phase = .idle) : runDrain s = .next s := by
  rw [runDrain, wordsLeft_of_idle h]
  rfl

theorem runDrain_of_stream {s : State} (h : s.phase = .stream) : runDrain s = .next s.drained := by
  rw [runDrain, wordsLeft_of_stream h]
  exact execSteps_words h (by omega)

/-- Settles O43: a changing event leaves all 25 words to drain, and `IDLE` leaves none. -/
theorem drainIsTwentyFiveWordsAfterAChange : Obligations.DrainIsTwentyFiveWordsAfterAChange := by
  refine ⟨fun up now s t h hc => ?_, fun s hp => runDrain_of_idle hp⟩
  obtain ⟨hphase, hk, hpix, hsends⟩ := changing_buttonEvent_begins_render h hc
  have all : wordsLeft t = 25 := by rw [wordsLeft_of_stream hphase, hk]; rfl
  have drained : t.drained = { t with
      phase := .idle, k := 0, sends := s.sends ++ glyphWords (s.glyphRom.get t.cnt) } := by
    rw [State.drained, hk, hpix, hsends]
    rfl
  refine ⟨?_, drained ▸ runDrain_of_stream hphase⟩
  rw [runLine, runDrain, all]

/-! ### Which states take a step, and that it does not touch the schedule -/

theorem idle_of_exec_event {i : Instr} {s t : State} (hi : i.isEvent = true) (h : exec i s = .next t) :
    s.phase = .idle := by
  cases hp : s.phase with
  | idle => rfl
  | stream => rw [exec_event_of_stream hi hp] at h; cases h

theorem stream_of_exec_pxXfer {s t : State} (h : exec .pxXfer s = .next t) : s.phase = .stream := by
  cases hp : s.phase with
  | idle => rw [exec_pxXfer_of_idle hp] at h; cases h
  | stream => rfl

/-- A counting event does not depend on the schedule. -/
theorem countEvent_with_inputs (delta : Digit → Digit) (now : Timestamp) (s : State) (ins : List Ports) :
    countEvent delta now { s with inputs := ins } = { countEvent delta now s with inputs := ins } := by
  by_cases hw : OutsideWindow s.tsWidth now s.lastTs
  · by_cases hd : delta s.cnt = s.cnt
    · rw [countEvent_of_saturated hw hd, countEvent_of_saturated (s := { s with inputs := ins }) hw hd]
      rfl
    · rw [countEvent_of_changing hw rfl hd, countEvent_of_changing (s := { s with inputs := ins }) hw rfl hd]
  · rw [countEvent_of_inside hw, countEvent_of_inside (s := { s with inputs := ins }) hw]

theorem advanceStream_with_inputs (s : State) (ins : List Ports) :
    advanceStream { s with inputs := ins } = { advanceStream s with inputs := ins } := by
  unfold advanceStream
  split_ifs <;> rfl

/-- No step reads or writes the schedule. -/
theorem exec_with_inputs {i : Instr} {s t : State} (h : exec i s = .next t) (ins : List Ports) :
    exec i { s with inputs := ins } = .next { t with inputs := ins } := by
  have takes {effect : State → State} (ht : takeEvent effect s = .next t)
      (heff : effect { s with inputs := ins } = { effect s with inputs := ins }) :
      takeEvent effect { s with inputs := ins } = .next { t with inputs := ins } := by
    obtain ⟨hp, rfl⟩ := takeEvent_next ht
    rw [takeEvent_of_idle (s := { s with inputs := ins }) effect hp, heff]
  cases i with
  | reset => obtain rfl : s.clearBlock = t := Host.Outcome.next.inj h; rfl
  | evUp now => exact takes h (countEvent_with_inputs satInc now s ins)
  | evDown now => exact takes h (countEvent_with_inputs satDec now s ins)
  | evNop00 now => exact takes (effect := unknownLineEvent now) h rfl
  | evNop11 now => exact takes (effect := unknownLineEvent now) h rfl
  | pxXfer =>
    have hp := stream_of_exec_pxXfer h
    rw [exec_pxXfer_of_stream hp] at h
    obtain rfl := Host.Outcome.next.inj h
    rw [exec_pxXfer_of_stream (s := { s with inputs := ins }) hp]
    exact congrArg _ (advanceStream_with_inputs (s.send s.streamWord) ins)

/-! ### Schedules of event programs -/

/-- Presenting the ports `ps` does on the machine what `f` does, where `f` is not refused. -/
def Presents (ps : List Ports) (f : State → Host.Outcome State Fault Refusal) : Prop :=
  ∀ (s t : State) (rest : List Ports), f s = .next t →
    run ps.length { s with inputs := ps ++ rest } = .next { t with inputs := rest }

/-- Schedules one after the other present what runs one after the other. -/
theorem Presents.append {ps qs : List Ports} {f g h : State → Host.Outcome State Fault Refusal} (hf : Presents ps f)
    (hg : Presents qs g) (hh : ∀ {s u : State}, h s = .next u → ∃ t, f s = .next t ∧ g t = .next u) :
    Presents (ps ++ qs) h := by
  intro s u rest hsu
  obtain ⟨t, hst, htu⟩ := hh hsu
  rw [List.length_append, List.append_assoc, run_add _ _ (hf s t (qs ++ rest) hst)]
  exact hg t u rest htu

/-- One entry presents a step when its code is fetched as that step wherever the step can be run. -/
theorem presents_of_fetch {p : Ports} {i : Instr}
    (hfetch : ∀ (s t : State) (rest : List Ports), exec i s = .next t →
      fetch { s with inputs := p :: rest } = .step i) : Presents [p] (exec i) := by
  intro s t rest h
  have one : step { s with inputs := p :: rest } = .next { t with inputs := rest } :=
    (step_of_fetch (hfetch s t rest h)).trans (exec_with_inputs h rest)
  exact run_succ_of_step 0 one

theorem presents_reset : Presents [resetPorts] (exec .reset) :=
  presents_of_fetch fun _ _ _ _ => fetch_of_rst rfl

theorem presents_event (line : LineCode) (t : Nat) :
    Presents [eventPorts line t] (exec (lineEvent line (BitVec.ofNat 64 t))) :=
  presents_of_fetch fun s _ rest h =>
    fetch_of_event (s := { s with inputs := eventPorts line t :: rest }) rfl
      (idle_of_exec_event (s := s) (lineEvent_isEvent _ _) h) rfl

theorem presents_word : Presents [readyPorts] (exec .pxXfer) :=
  presents_of_fetch fun s _ rest h =>
    fetch_of_word (s := { s with inputs := readyPorts :: rest }) rfl (stream_of_exec_pxXfer (s := s) h) rfl

theorem presents_words (n : Nat) : Presents (List.replicate n readyPorts) (execSteps (List.replicate n .pxXfer)) := by
  induction n with
  | zero =>
    intro s t rest h
    obtain rfl : s = t := Host.Outcome.next.inj h
    exact run_zero _
  | succ n ih => exact presents_word.append ih execSteps_cons_next

theorem runDrain_next_idle {s t : State} (h : runDrain s = .next t) : t.phase = .idle := by
  cases hp : s.phase with
  | idle =>
    rw [runDrain_of_idle hp] at h
    obtain rfl := Host.Outcome.next.inj h
    exact hp
  | stream =>
    rw [runDrain_of_stream hp] at h
    obtain rfl := Host.Outcome.next.inj h
    rfl

/-- Of the 25 readies of a `DRAIN`, those that find a word take it, and the others pass in `IDLE`. -/
theorem presents_drain : Presents (List.replicate 25 readyPorts) runDrain := by
  intro s t rest h
  have idle := runDrain_next_idle h
  obtain ⟨m, total⟩ : ∃ m, 25 = wordsLeft s + m := ⟨25 - wordsLeft s, by unfold wordsLeft; split <;> omega⟩
  have passes := run_of_waiting (s := t) (ins := List.replicate m readyPorts) rest fun p hmem tl => by
    obtain rfl := List.eq_of_mem_replicate hmem
    exact step_of_idle_quiet (s := { t with inputs := readyPorts :: tl }) rfl idle rfl
  rw [total, ← List.replicate_append_replicate, List.length_append, List.append_assoc,
    run_add _ _ (presents_words _ s t _ h), passes]

theorem presents_press {p : Ports} {i : Instr} (h : Presents [p] (exec i)) :
    Presents (p :: List.replicate 25 readyPorts) (runPress i) := by
  refine h.append presents_drain fun {s u} hsu => ?_
  cases hi : exec i s with
  | next t => exact ⟨t, rfl, by simpa [runPress, hi] using hsu⟩
  | fault f => exact nomatch f
  | refused r => simp [runPress, hi] at hsu

theorem presents_line (l : Line) : Presents (lineSchedule l) (runLine l) := by
  cases l with
  | reset => exact presents_reset
  | up t => exact presents_event 0b01#2 t
  | down t => exact presents_event 0b10#2 t
  | nop0 t => exact presents_event 0b00#2 t
  | nop3 t => exact presents_event 0b11#2 t
  | px => exact presents_word
  | drain => exact presents_drain
  | pressUp t => exact presents_press (presents_event 0b01#2 t)
  | pressDown t => exact presents_press (presents_event 0b10#2 t)

theorem runProgram_cons_next {l : Line} {ls : List Line} {s u : State} (h : runProgram (l :: ls) s = .next u) :
    ∃ t, runLine l s = .next t ∧ runProgram ls t = .next u := by
  cases hl : runLine l s with
  | next t => exact ⟨t, rfl, by simpa [runProgram, hl] using h⟩
  | fault f => exact nomatch f
  | refused r => simp [runProgram, hl] at h

theorem presents_program (prog : List Line) : Presents (programSchedule prog) (runProgram prog) := by
  induction prog with
  | nil =>
    intro s t rest h
    obtain rfl : s = t := Host.Outcome.next.inj h
    exact run_zero _
  | cons l ls ih => exact (presents_line l).append ih runProgram_cons_next

/-- Settles O44: each line's schedule presents the line, and schedules compose as lines do. -/
theorem presentedScheduleRunsTheProgram : Obligations.PresentedScheduleRunsTheProgram :=
  presents_program

end Sys2Proof.Machine
end
